-- ==== Sys2Proof/Word.lean ====
section
/-! DEFINITION. Word.lean: the word and byte types of the block (rules R6, R8, R83). -/

namespace Sys2Proof

/-- R6 `WORD_BITS`, R10 `u64`: every virtual address, physical address, entry and table-base value is one
64-bit unsigned word; bit 0 is the least significant (R8). -/
abbrev Word := BitVec 64

/-- The unit of both address spaces (R40). -/
abbrev Byte := BitVec 8

end Sys2Proof
end

