-- ==== Sys2Proof/Config.lean ====
section
/-! DEFINITION. Config.lean: the parameters the spec leaves open (rule R7), and the free values.

`BYTE_ORDER` and `WRAP_1G` have one value each in R7 (`little`, `mod64`), so they are built into
`Machine.wordOfBytes` and `Machine.pageAddr1g` and are no fields here. `MEM` is the memory reader of `Machine/State.lean`
(its image, its decided answers, and the free values below). `TB` comes with each request. `N_WALKERS` is the length of
`State.walkers`. -/

namespace Sys2Proof

/-- R7, R135 (decision D4): what the walker does with a PD entry that has P=1 and PS=1. -/
inductive PdPsPolicy where
  | fault   -- `FAULT`, the default: `UnexpectedHugePage{PD}`
  | map2m   -- `MAP_2M`: a 2 MiB page
  | ignore  -- `IGNORE`: descend as if PS=0
deriving DecidableEq, Repr, Inhabited

/-- R7 `FaultInfo` (decision D8, a type parameter): which values an access fault can carry. Up to renaming its values, a
type with finitely many values or with as many as the natural numbers (DESIGN CHOICE, log entry 3). -/
inductive FaultInfoType where
  | finite (greatest : Nat)  -- the values 0 to `greatest`; `finite 0` is the unit type, the default of R7
  | naturals                 -- every natural number
deriving DecidableEq, Repr, Inhabited

/-- The parameters of R7 that vary between implementations. `State` carries one as plain data that no step changes,
so that a statement about every state is a statement about every parameter (log entry 2). -/
structure Config where
  /-- `PD_PS_POLICY`, by default `FAULT`. -/
  pdPsPolicy : PdPsPolicy := .fault
  /-- `FaultInfo`, by default the unit type. -/
  faultInfos : FaultInfoType := .finite 0
deriving DecidableEq, Repr, Inhabited

/-- R183: what an access fault carries, a value of the type that the parameter `Config.faultInfos` gives; as plain data it
is the value's number (log entry 3). -/
abbrev FaultInfo := Nat

/-- R10 `ReadResult`: what one `read_u64` returns. -/
inductive ReadResult where
  | ok (data : Word)
  | fault (info : FaultInfo)
deriving DecidableEq, Repr, Inhabited

/-- FREE VALUE (log entry 3): the information in the fault that the memory reader returns for an address it cannot read
(R46, R183: "the block adds nothing"), before it is brought into the type `Config.faultInfos`. Applied to the draw counter
`Reader.draws`; it has no value in Lean. -/
opaque Config.faultInfo : Nat → FaultInfo

/-- FREE VALUE (log entry 4): what the memory reader answers to a misaligned `read_u64` (R49: "not the block's concern
and not in the source"). Applied to the draw counter `Reader.draws`; it has no value in Lean. -/
opaque Config.misalignedAnswer : Nat → ReadResult

end Sys2Proof
end

