-- ==== Sys2Proof/Syntax.lean ====
section
/-! DEFINITION. Syntax.lean: the levels, the entry classes, the walk latches, and the instructions: one constructor per
row of spec/opcode_table.json (rules R10, R24, R84, R90; decision D13 says what an instruction of this block is). -/

namespace Sys2Proof

/-- R10, R121: the four levels in walk order. -/
inductive Level where
  | pml4 | pdpt | pd | pt
deriving DecidableEq, Repr, Inhabited

/-- R84: the eleven classes of a fetched entry. -/
inductive EntryClass where
  | pml4eNp | pml4eTbl
  | pdpteNp | pdpteTbl | pdptePg1g
  | pdeNp | pdeTbl | pdePs1
  | pteNp | ptePg4k | ptePs1
deriving DecidableEq, Repr

/-- R25: the walk pointer, the block's analogue of a program counter: the level and the frame base of the table whose
entry is read next. -/
structure WalkPointer where
  level : Level
  base  : Word
deriving DecidableEq, Repr

/-- R24: the latches of a walk in progress. `id` is the walk identity that the read events of R32 carry; it is the
model's bookkeeping, like `nreads` (log entry 6). -/
structure Walk where
  va     : Word
  wp     : WalkPointer
  nreads : Nat
  id     : Nat
deriving DecidableEq, Repr

/-- The instructions (decision D13): a fetched entry by its class (R84), `e` being the whole fetched word, and the
operations of R90 with their operands. -/
inductive Instr where
  -- the entry classes (R128 to R138)
  | pml4eNp (e : Word)
  | pml4eTbl (e : Word)
  | pdpteNp (e : Word)
  | pdpteTbl (e : Word)
  | pdptePg1g (e : Word)
  | pdeNp (e : Word)
  | pdeTbl (e : Word)
  | pdePs1 (e : Word)
  | pteNp (e : Word)
  | ptePg4k (e : Word)
  | ptePs1 (e : Word)
  -- the operations (R90); the argument order is the source's (R91)
  | select (x : Word) (low high : Nat)
  | install (value x : Word) (low high : Nat)
  | readU64 (physicalAddress : Word)
  | translate (tableBase vaddr : Word)
  | frameBase (src : Word)
  | index (level : Level) (vaddr : Word)
  | entryAddrPml4 (base vaddr : Word)
  | entryAddrPdpt (base vaddr : Word)
  | entryAddrPd (base vaddr : Word)
  | entryAddrPt (base vaddr : Word)
  | classify (level : Level) (entry : Word)
  | pageAddr4k (entry vaddr : Word)
  | pageAddr1g (entry vaddr : Word)
  | pageAddr2m (entry vaddr : Word)
  | walkStep (walk : Walk)
deriving DecidableEq, Repr

/-- R84: the level whose table an entry class belongs to. -/
def EntryClass.level : EntryClass → Level
  | .pml4eNp | .pml4eTbl => .pml4
  | .pdpteNp | .pdpteTbl | .pdptePg1g => .pdpt
  | .pdeNp | .pdeTbl | .pdePs1 => .pd
  | .pteNp | .ptePg4k | .ptePs1 => .pt

/-- The class of an entry-class instruction and the entry it was read from; `none` for an operation of R90. -/
def Instr.entry? : Instr → Option (EntryClass × Word)
  | .pml4eNp e => some (.pml4eNp, e)
  | .pml4eTbl e => some (.pml4eTbl, e)
  | .pdpteNp e => some (.pdpteNp, e)
  | .pdpteTbl e => some (.pdpteTbl, e)
  | .pdptePg1g e => some (.pdptePg1g, e)
  | .pdeNp e => some (.pdeNp, e)
  | .pdeTbl e => some (.pdeTbl, e)
  | .pdePs1 e => some (.pdePs1, e)
  | .pteNp e => some (.pteNp, e)
  | .ptePg4k e => some (.ptePg4k, e)
  | .ptePs1 e => some (.ptePs1, e)
  | .select .. | .install .. | .readU64 _ | .translate .. | .frameBase _ | .index ..
  | .entryAddrPml4 .. | .entryAddrPdpt .. | .entryAddrPd .. | .entryAddrPt .. | .classify ..
  | .pageAddr4k .. | .pageAddr1g .. | .pageAddr2m .. | .walkStep _ => none

/-- R90: an operation is what a requester can call; an entry class is only ever fetched (R92). -/
def Instr.isOperation (i : Instr) : Bool := i.entry?.isNone

end Sys2Proof
end

