-- ==== Sys2Proof/Machine/Operands.lean ====
section
/-! DEFINITION. Machine/Operands.lean: the bit-field codec, and every address the block assembles from it
(40_bitfield_codec.md; R70, R77 to R82, R120 to R126, R141 to R143), and the byte order of a word (R48). -/

namespace Sys2Proof.Machine

/-- R100, R101: a bit range with the codec's precondition `0 ≤ low ≤ high ≤ 63` in its type, so that a call outside the
contract has no value (R104, decision D12). -/
structure BitRange where
  low   : Nat
  high  : Nat
  legal : low ≤ high ∧ high ≤ 63
deriving DecidableEq, Repr

/-- The range of a caller's bounds, or none where they violate the contract (R104). -/
def bitRange? (low high : Nat) : Option BitRange :=
  if h : low ≤ high ∧ high ≤ 63 then some ⟨low, high, h⟩ else none

/-- R100 `w = high - low + 1`. -/
def BitRange.width (r : BitRange) : Nat := r.high - r.low + 1

/-- R100: bits `low..high` of `x`, right-justified. -/
def select (x : Word) (r : BitRange) : Word := (x.extractLsb' r.low r.width).setWidth 64

/-- R101 `m = (2^w - 1) << low`. -/
def fieldMask (r : BitRange) : Word := (BitVec.allOnes r.width).setWidth 64 <<< r.low

/-- R101: `x` with bits `low..high` replaced by the low `w` bits of `value`. -/
def install (value x : Word) (r : BitRange) : Word :=
  (x &&& ~~~(fieldMask r)) ||| ((value.setWidth r.width).setWidth 64 <<< r.low)

/-! The constant ranges of the walker (R108). -/

/-- R6 `FRAME_LO`, `FRAME_HI`. -/
def frameField : BitRange := ⟨12, 51, by decide⟩
/-- R80: where the 9-bit index is placed in an entry address. -/
def slotField : BitRange := ⟨3, 11, by decide⟩
/-- R6 `P_BIT`. -/
def presentField : BitRange := ⟨0, 0, by decide⟩
/-- R6 `PS_BIT`. -/
def pageSizeField : BitRange := ⟨7, 7, by decide⟩
/-- R6 `PAGE_4K_OFFSET_BITS`. -/
def offset4k : BitRange := ⟨0, 11, by decide⟩
/-- R6 `PAGE_2M_OFFSET_BITS`. -/
def offset2m : BitRange := ⟨0, 20, by decide⟩
/-- R6 `PAGE_1G_OFFSET_BITS`. -/
def offset1g : BitRange := ⟨0, 29, by decide⟩

/-- R70, R121: the virtual-address slice of a level. -/
def indexField : Level → BitRange
  | .pml4 => ⟨39, 47, by decide⟩
  | .pdpt => ⟨30, 38, by decide⟩
  | .pd   => ⟨21, 29, by decide⟩
  | .pt   => ⟨12, 20, by decide⟩

/-- R121: a level's ordinal. -/
def ordinal : Level → Nat
  | .pml4 => 0
  | .pdpt => 1
  | .pd   => 2
  | .pt   => 3

/-- R10, R121: the next level; PT has none. -/
def nextLevel : Level → Option Level
  | .pml4 => some .pdpt
  | .pdpt => some .pd
  | .pd   => some .pt
  | .pt   => none

/-- R71: `F`, the 40-bit frame number of an entry or of the table base. -/
def frameNumber (s : Word) : Word := select s frameField

/-- R120. -/
def frameBase (s : Word) : Word := install (select s frameField) 0 frameField

/-- R121. -/
def index (lvl : Level) (va : Word) : Word := select va (indexField lvl)

/-- R80, R122 to R125: one pattern at every level. -/
def entryAddr (lvl : Level) (base va : Word) : Word := install (index lvl va) base slotField

/-- R141. -/
def pageAddr4k (e va : Word) : Word := install (select va offset4k) (frameNumber e <<< 12) offset4k

/-- R142: the 64-bit shift drops `F[39:34]` (decision D5). -/
def pageAddr1g (e va : Word) : Word := install (select va offset1g) (frameNumber e <<< 30) offset1g

/-- R143 (decision D4). -/
def pageAddr2m (e va : Word) : Word := install (select va offset2m) (frameNumber e <<< 21) offset2m

/-- R24: the latches of a walk in progress hold a frame base and a read count 0 to 3. -/
def legalWalk (k : Walk) : Bool := decide (frameBase k.wp.base = k.wp.base) && decide (k.nreads ≤ 3)

/-- R48 (decision D6): byte `i` of a word, little-endian. -/
def byteOfWord (w : Word) (i : Nat) : Byte := w.extractLsb' (8 * i) 8

/-- R48: the eight bytes of a word, the one at the lowest address first. -/
def bytesOfWord (w : Word) : List Byte :=
  [byteOfWord w 0, byteOfWord w 1, byteOfWord w 2, byteOfWord w 3,
   byteOfWord w 4, byteOfWord w 5, byteOfWord w 6, byteOfWord w 7]

/-- R48: a word from its bytes, the first byte in bits 7:0. -/
def wordOfBytes : List Byte → Word
  | [] => 0
  | b :: bs => b.setWidth 64 ||| (wordOfBytes bs <<< 8)

end Sys2Proof.Machine
end

