-- ==== Sys2Proof/Machine/Flags.lean ====
section
/-! DEFINITION. Machine/Flags.lean: the flags of a fetched entry (R71) and the masks of the entry classes (R84). The block
itself has no flag or condition code, and no operation writes one (R22, R102). -/

namespace Sys2Proof.Machine

/-- R71: the Present bit of an entry. -/
def present (e : Word) : Bool := decide (select e presentField = 1)

/-- R71: the PageSize bit of an entry. -/
def pageSize (e : Word) : Bool := decide (select e pageSizeField = 1)

/-- R84, column `mask`. -/
def classMask : EntryClass → Word
  | .pml4eNp   => 0x0000000000000001
  | .pml4eTbl  => 0x0000000000000001
  | .pdpteNp   => 0x0000000000000001
  | .pdpteTbl  => 0x0000000000000081
  | .pdptePg1g => 0x0000000000000081
  | .pdeNp     => 0x0000000000000001
  | .pdeTbl    => 0x0000000000000081
  | .pdePs1    => 0x0000000000000081
  | .pteNp     => 0x0000000000000001
  | .ptePg4k   => 0x0000000000000081
  | .ptePs1    => 0x0000000000000081

/-- R84, column `match`. -/
def classMatch : EntryClass → Word
  | .pml4eNp   => 0x0000000000000000
  | .pml4eTbl  => 0x0000000000000001
  | .pdpteNp   => 0x0000000000000000
  | .pdpteTbl  => 0x0000000000000001
  | .pdptePg1g => 0x0000000000000081
  | .pdeNp     => 0x0000000000000000
  | .pdeTbl    => 0x0000000000000001
  | .pdePs1    => 0x0000000000000081
  | .pteNp     => 0x0000000000000000
  | .ptePg4k   => 0x0000000000000001
  | .ptePs1    => 0x0000000000000081

/-- R84: an entry is in a class when `entry & mask = match`. -/
def inClass (c : EntryClass) (e : Word) : Bool := decide (e &&& classMask c = classMatch c)

end Sys2Proof.Machine
end

