-- ==== Sys2Proof/WellFormed.lean ====
section
/-! DEFINITION. WellFormed.lean: what the spec asks of an instruction's operands. -/

namespace Sys2Proof

/-- An entry-class instruction holds an entry of its class (R84). An operation's operands are as its rule names them: the
codec's bounds (R100, R101), a frame base (R122 to R125), an entry of the class a page address is built from (R141 to R143),
the latches of a walk in progress (R24). The other operations accept every word (R153). -/
def Instr.wellFormed : Instr → Bool
  | .pml4eNp e => Machine.inClass .pml4eNp e
  | .pml4eTbl e => Machine.inClass .pml4eTbl e
  | .pdpteNp e => Machine.inClass .pdpteNp e
  | .pdpteTbl e => Machine.inClass .pdpteTbl e
  | .pdptePg1g e => Machine.inClass .pdptePg1g e
  | .pdeNp e => Machine.inClass .pdeNp e
  | .pdeTbl e => Machine.inClass .pdeTbl e
  | .pdePs1 e => Machine.inClass .pdePs1 e
  | .pteNp e => Machine.inClass .pteNp e
  | .ptePg4k e => Machine.inClass .ptePg4k e
  | .ptePs1 e => Machine.inClass .ptePs1 e
  | .select _ low high => decide (low ≤ high ∧ high ≤ 63)
  | .install _ _ low high => decide (low ≤ high ∧ high ≤ 63)
  | .readU64 _ => true
  | .translate _ _ => true
  | .frameBase _ => true
  | .index _ _ => true
  | .entryAddrPml4 base _ => decide (Machine.frameBase base = base)
  | .entryAddrPdpt base _ => decide (Machine.frameBase base = base)
  | .entryAddrPd base _ => decide (Machine.frameBase base = base)
  | .entryAddrPt base _ => decide (Machine.frameBase base = base)
  | .classify _ _ => true
  | .pageAddr4k e _ => Machine.inClass .ptePg4k e
  | .pageAddr1g e _ => Machine.inClass .pdptePg1g e
  | .pageAddr2m e _ => Machine.inClass .pdePs1 e
  | .walkStep k => Machine.legalWalk k

end Sys2Proof
end

