-- ==== Sys2Proof/Decode.lean ====
section
/-! DEFINITION. Decode.lean: the block's one decoder, from a level and a fetched entry to an entry class (R84, R127, R139),
and the encoder of an entry class (R92). An operation of R90 has no binary encoding. -/

namespace Sys2Proof

/-- R127, R84: P is looked at first, then PS, and PS only where P=1 and only below the PML4. -/
def classify (lvl : Level) (e : Word) : EntryClass :=
  match lvl, Machine.present e, Machine.pageSize e with
  | .pml4, false, _     => .pml4eNp
  | .pml4, true,  _     => .pml4eTbl
  | .pdpt, false, _     => .pdpteNp
  | .pdpt, true,  false => .pdpteTbl
  | .pdpt, true,  true  => .pdptePg1g
  | .pd,   false, _     => .pdeNp
  | .pd,   true,  false => .pdeTbl
  | .pd,   true,  true  => .pdePs1
  | .pt,   false, _     => .pteNp
  | .pt,   true,  false => .ptePg4k
  | .pt,   true,  true  => .ptePs1

/-- The entry-class instruction of a class and the entry it was read from. -/
def Instr.ofEntry (c : EntryClass) (e : Word) : Instr :=
  match c with
  | .pml4eNp   => .pml4eNp e
  | .pml4eTbl  => .pml4eTbl e
  | .pdpteNp   => .pdpteNp e
  | .pdpteTbl  => .pdpteTbl e
  | .pdptePg1g => .pdptePg1g e
  | .pdeNp     => .pdeNp e
  | .pdeTbl    => .pdeTbl e
  | .pdePs1    => .pdePs1 e
  | .pteNp     => .pteNp e
  | .ptePg4k   => .ptePg4k e
  | .ptePs1    => .ptePs1 e

/-- R139: decoding a 64-bit entry read at a level; total, every entry has a class. -/
def decodeEntry (lvl : Level) (e : Word) : Instr := Instr.ofEntry (classify lvl e) e

/-- Why bytes do not decode. -/
inductive DecodeError where
  | truncated  -- fewer than eight bytes: "a fixed entry size of 8 bytes" (R83)
deriving DecidableEq, Repr

/-- Decoding the bytes of a table read at a level: the instruction of the first entry, and the bytes after it. -/
def decode (lvl : Level) : List Byte → Except DecodeError (Instr × List Byte)
  | b0 :: b1 :: b2 :: b3 :: b4 :: b5 :: b6 :: b7 :: rest =>
      .ok (decodeEntry lvl (Machine.wordOfBytes [b0, b1, b2, b3, b4, b5, b6, b7]), rest)
  | _ => .error .truncated

/-- The entry word of an entry-class instruction by its row of R84: the class's match bits under its mask, and the
instruction's own bits elsewhere. -/
def encodeEntry (c : EntryClass) (e : Word) : Word :=
  (e &&& ~~~(Machine.classMask c)) ||| Machine.classMatch c

/-- The level an entry-class instruction is read at and its eight bytes; none for an operation, which has no binary
encoding (R90, R92). -/
def encode (i : Instr) : Option (Level × List Byte) :=
  match i.entry? with
  | some (c, e) => some (c.level, Machine.bytesOfWord (encodeEntry c e))
  | none => none

/-- The host's probe. An opcode-table word says no level, so the word is decoded as the entry a walk reads FIRST, a PML4E
(R26; log entry 9). -/
def decodeTableWord (nbits w : Nat) : Option Instr :=
  match decode .pml4 (Machine.bytesOfWord (BitVec.ofNat 64 (w % 2 ^ nbits))) with
  | .ok (i, _) => some i
  | .error _ => none

end Sys2Proof
end

