-- ==== Sys2Proof/Machine/State.lean ====
section
/-! DEFINITION. Machine/State.lean: the state of the block (the walks in progress, R24) and of what stands around it (the
memory reader's image, the moves of the other agents, what has left the block), and the state after reset (R33, R210). -/

namespace Sys2Proof.Machine

/-- R10, R180: why a walk fails. -/
inductive TranslationError where
  | notPresent (level : Level)          -- R181
  | unexpectedHugePage (level : Level)  -- R182
  | accessFault (info : FaultInfo)      -- R183
deriving DecidableEq, Repr

/-- R79: the tagged result of a walk (`Result` in the spec); never a sentinel (R193). -/
inductive WalkResult where
  | ok (pa : Word)
  | err (e : TranslationError)
deriving DecidableEq, Repr

/-- R24: the state of a walker instance. -/
inductive WalkState where
  | idle
  | walking (k : Walk)
  | done (result : WalkResult) (nreads : Nat)
deriving DecidableEq, Repr

/-- R32: one read event. -/
structure ReadEvent where
  walk   : Nat
  level  : Level
  addr   : Word
  answer : ReadResult
deriving DecidableEq, Repr

/-- How the memory reader answers one read (decision D7: each read is answered separately): from the image, or with an
answer it has decided on otherwise (a fault at a readable address, a device behind the direct map, a torn value). -/
inductive Answer where
  | image
  | given (r : ReadResult)
deriving DecidableEq, Repr

/-- R20: the agents. -/
inductive Agent where
  | walker (w : Nat)
  | memoryReader
  | tableBaseSource
  | requester
  | otherWriter
deriving DecidableEq, Repr

/-- One move of an agent (the port events of R31, and the liberties of decision D18). `State.agenda` lists the moves to
come, so one deterministic machine admits every interleaving (log entry 1). -/
inductive Move where
  | request (w : Nat) (tableBase vaddr : Word)  -- `req`: idle instance `w` takes a request (R26)
  | walk (w : Nat)                              -- one walk step of instance `w` (R140)
  | respond (w : Nat)                           -- `rsp`: the requester receives instance `w`'s result (R27; log entry 25)
  | call (i : Instr)                            -- the requester calls an operation of R90
  | store (a v : Word)                          -- another writer stores eight bytes (R54)
  | poke (a : Word) (b : Byte)                  -- another writer stores one byte
  | unmap (a : Word)                            -- a byte stops being readable (R46)
  | answer (x : Answer)                         -- the memory reader decides on a later answer (R54, U6)
deriving DecidableEq, Repr

/-- R20: whose move it is. The table-base source supplies the value in a request and takes no step (R20). A response is the
requester's, who receives the result (R20), since a walker's only step is the walk step (R140): the spec does not say so in as
many words (DEDUCED, log entry 25). No definition reads this label. -/
def Move.agent : Move → Agent
  | .request .. => .requester
  | .walk w => .walker w
  | .respond _ => .requester
  | .call _ => .requester
  | .store .. => .otherWriter
  | .poke .. => .otherWriter
  | .unmap _ => .memoryReader
  | .answer _ => .memoryReader

/-- What leaves the block: a walk's response (R27), or the value of a called operation (R90). -/
inductive Reply where
  | response (w : Nat) (r : WalkResult)  -- the `rsp` event of instance `w`
  | result (r : WalkResult)              -- `translate`
  | word (v : Word)                      -- an operation whose value is a word
  | read (r : ReadResult)                -- `read_u64`
  | cls (c : EntryClass)                 -- `classify`
  | walkState (ws : WalkState)           -- `walk_step`
deriving DecidableEq, Repr

/-- The memory reader's image: byte addresses with their bytes. An address that is not listed cannot be read (log
entry 5). -/
abbrev Memory := List Host.Cell

/-- R20, R45: the memory reader, the parameter `MEM` of R7: what it holds and how it will answer. -/
structure Reader where
  /-- R43: the image. -/
  mem : Memory
  /-- R54, D7: answers decided on, the next one first; when none is left the reader answers from the image. -/
  answers : List Answer
  /-- How many free values have been drawn (log entries 3 and 4). -/
  draws : Nat
deriving DecidableEq, Repr

/-- The machine. `walkers` is the block; the other fields are its environment and the record of what left it. -/
structure State where
  /-- R21, R24: the walker instances; their number is `N_WALKERS` (decision D3). -/
  walkers : List WalkState
  /-- The instance whose walk an entry class acts on; set by a walk step (log entry 1). -/
  active : Nat
  /-- R7: the parameters; no step changes them. -/
  cfg : Config
  /-- R20, R7: the memory reader. -/
  reader : Reader
  /-- D18: the moves to come, the next one first (log entry 1). -/
  agenda : List Move
  /-- R32: the read events so far, the oldest first. -/
  events : List ReadEvent
  /-- R27, R31: what left the block so far, the oldest first. -/
  replies : List Reply
  /-- How many walks have begun: the supply of walk identities (log entry 6). -/
  nWalks : Nat
deriving DecidableEq, Repr

/-- Why the machine stops with a fault. -/
inductive Fault where
  /-- Raised by `translate` if four walk steps had left the walk unfinished. No state raises it (R155: a walk makes at
  most four steps); `Obligations.TranslateAlwaysCompletes` says so. Safe: it stops where the spec goes on. -/
  | walkUnfinished
deriving DecidableEq, Repr

/-- Why the machine gives a move or an instruction no meaning. -/
inductive Refusal where
  /-- Raised by `exec`'s arm of an instruction that has no meaning yet; no arm raises it now. Safe. -/
  | notModelled (mnemonic : String)
  /-- Raised by `select` and `install` outside `0 ≤ low ≤ high ≤ 63`: "undefined per this spec" (R104, D12). Safe. -/
  | codecContract
  /-- Raised by `walk_step` on an operand that is no state of a walk in progress: a base that is not a frame base or a
  read count above 3 (R24). Safe. -/
  | notAWalkState
  /-- Raised by a walk step or an entry class where the instance is Idle or Done: "There is no step from Idle or Done"
  (R140). Safe. -/
  | noWalkInProgress
  /-- Raised by an entry class where the active walk is at another level: the class is not one of that level's (R84). Safe. -/
  | wrongLevel
  /-- Raised by a move that names an instance the machine does not have (R21). Safe. -/
  | noSuchInstance
  /-- Raised by a request to an instance that is not Idle: a request is taken by an Idle instance (R26, D3). Safe. -/
  | instanceNotIdle
  /-- Raised by a response move where the instance has no result: a response comes when the walk is Done (R27, R31). Safe. -/
  | nothingToDeliver
  /-- Raised by the move that decides on an answer, where the answer is a fault whose information is not of the type
  `Config.faultInfos` (R7, D8; log entry 3). Safe. -/
  | notAnAnswer
  /-- Raised by a call of an entry class, which is no operation (R90, R92). Safe. -/
  | notAnOperation
deriving DecidableEq, Repr

/-- The machine of `n` instances and parameters `c` after reset: every instance Idle, nothing pending, nothing recorded;
memory is outside the block and nothing of it is listed (R33, R210). -/
def State.resetWith (n : Nat) (c : Config) : State where
  walkers := List.replicate n .idle
  active  := 0
  cfg     := c
  reader  := ⟨[], [], 0⟩
  agenda  := []
  events  := []
  replies := []
  nWalks  := 0

/-- The state after reset, of the machine with two instances and the default parameters (log entry 7). -/
def State.reset : State := State.resetWith 2 {}

end Sys2Proof.Machine
end

