-- ==== Sys2Proof/Machine/Memory.lean ====
section
/-! DEFINITION. Machine/Memory.lean: the memory reader's image, bytes by address in one canonical form (R40, R43, R48), and
how the other writers change it (R54). -/

namespace Sys2Proof.Machine

/-- The byte at an address; none where the image lists none. -/
def readByte (m : Memory) (a : Nat) : Option Byte :=
  match m with
  | [] => none
  | (k, b) :: rest => if k = a then some b else readByte rest a

/-- Puts a byte at an address. -/
def writeByte (m : Memory) (a : Nat) (b : Byte) : Memory :=
  match m with
  | [] => [(a, b)]
  | (k, c) :: rest =>
      if a < k then (a, b) :: (k, c) :: rest
      else if a = k then (a, b) :: rest
      else (k, c) :: writeByte rest a b

/-- Makes an address unreadable. -/
def eraseByte (m : Memory) (a : Nat) : Memory :=
  match m with
  | [] => []
  | (k, c) :: rest => if k = a then rest else (k, c) :: eraseByte rest a

/-- The `n` bytes from an address up; none where one of them is not listed. Addresses wrap at 2^64. -/
def readBytes (m : Memory) (a : Word) : Nat → Option (List Byte)
  | 0 => some []
  | n + 1 =>
      match readByte m a.toNat, readBytes m (a + 1) n with
      | some b, some bs => some (b :: bs)
      | _, _ => none

/-- Puts bytes from an address up. Addresses wrap at 2^64. -/
def writeBytes (m : Memory) (a : Word) : List Byte → Memory
  | [] => m
  | b :: bs => writeBytes (writeByte m a.toNat b) (a + 1) bs

/-- R44, R48: the eight bytes at an address as one word. -/
def readWord (m : Memory) (a : Word) : Option Word := (readBytes m a 8).map wordOfBytes

/-- A writer's eight-byte store. -/
def writeWord (m : Memory) (a v : Word) : Memory := writeBytes m a (bytesOfWord v)

/-- The canonical form: addresses strictly rising, each below 2^64 (R10). -/
abbrev Memory.wf (m : Memory) : Prop :=
  m.Pairwise (fun x y => x.1 < y.1) ∧ ∀ c ∈ m, c.1 < 2 ^ 64

end Sys2Proof.Machine
end

