-- ==== Sys2Proof/Machine/Ops.lean ====
section
/-! DEFINITION. Machine/Ops.lean: the shared operations: the memory reader's answer to one read (R44), the three outcomes of
a step (R160: descend, stop with an address, stop with a failure), and how an instruction's value leaves the block. -/

namespace Sys2Proof.Machine

/-- The outcome of an instruction or a move. -/
abbrev Result := Host.Outcome State Fault Refusal

/-! ## The memory reader -/

/-- R7 `FaultInfo`: whether a value is of the type. -/
def infoInType (t : FaultInfoType) (i : FaultInfo) : Bool :=
  match t with
  | .finite greatest => decide (i ≤ greatest)
  | .naturals => true

/-- R7 `FaultInfo`: a free value as a value of the type; every value of the type is that of some free value. -/
def toInfoType (t : FaultInfoType) (i : FaultInfo) : FaultInfo :=
  match t with
  | .finite greatest => min i greatest
  | .naturals => i

/-- Whether what a read returns carries information of the type. -/
def readInType (t : FaultInfoType) (r : ReadResult) : Bool :=
  match r with
  | .ok _ => true
  | .fault i => infoInType t i

/-- Whether a decided answer carries information of the type. -/
def answerInType (t : FaultInfoType) (x : Answer) : Bool :=
  match x with
  | .image => true
  | .given r => readInType t r

/-- A free read result as one whose information is of the type. -/
def toReadType (t : FaultInfoType) (r : ReadResult) : ReadResult :=
  match r with
  | .ok v => .ok v
  | .fault i => .fault (toInfoType t i)

/-- The reader's answer from its image: the word at an aligned readable address (R44), a fault at an aligned unreadable one
(R46), a free value at a misaligned one (R49). The number says how many free values were drawn. -/
def imageAnswer (c : Config) (m : Reader) (a : Word) : ReadResult × Nat :=
  if a.extractLsb' 0 3 = 0 then
    match readWord m.mem a with
    | some v => (.ok v, 0)
    | none => (.fault (toInfoType c.faultInfos (Config.faultInfo m.draws)), 1)
  else (toReadType c.faultInfos (Config.misalignedAnswer m.draws), 1)

/-- R44 `read_u64`, `MemRead(addr, 8)`: the reader answers each read separately (R54, D7), as it has decided or from its
image. A read leaves the image as it was: that R51 and N9 do not say whether a read has effects of its own is settled so by
the model (DESIGN CHOICE, log entry 23). -/
def memRead (c : Config) (m : Reader) (a : Word) : ReadResult × Reader :=
  match m.answers with
  | .given r :: rest => (r, { m with answers := rest })
  | .image :: rest => ((imageAnswer c m a).1, { m with answers := rest, draws := m.draws + (imageAnswer c m a).2 })
  | [] => ((imageAnswer c m a).1, { m with draws := m.draws + (imageAnswer c m a).2 })

/-- The address of the entry a walk reads next (R140). -/
def walkAddr (k : Walk) : Word := entryAddr k.wp.level k.wp.base k.va

/-- The read of a walk step: one read at the entry address, and its event (R140, R32). -/
def readEntry (k : Walk) (s : State) : ReadResult × State :=
  let p := memRead s.cfg s.reader (walkAddr k)
  (p.1, { s with reader := p.2, events := s.events ++ [⟨k.id, k.wp.level, walkAddr k, p.1⟩] })

/-! ## The walk's outcomes -/

/-- R26: the start of a walk; nothing is read. -/
def startWalk (id : Nat) (tableBase vaddr : Word) : Walk :=
  { va := vaddr, wp := ⟨.pml4, frameBase tableBase⟩, nreads := 0, id := id }

/-- R190 `raise X(info)`, the block's only exception: the walk ends with the failure and nothing is saved but the result;
there is no return from it (R191). -/
def raise (k : Walk) (e : TranslationError) : WalkState := .done (.err e) (k.nreads + 1)

/-- R9 `return Ok(pa)`. -/
def finish (k : Walk) (pa : Word) : WalkState := .done (.ok pa) (k.nreads + 1)

/-- R25 `wp <- (next, frame_base(e))`. -/
def descend (k : Walk) (next : Level) (e : Word) : WalkState :=
  .walking { k with wp := ⟨next, frameBase e⟩, nreads := k.nreads + 1 }

/-! ## Acting on the state -/

/-- Gives an instance its new walk state. -/
def setWalker (s : State) (w : Nat) (ws : WalkState) : State := { s with walkers := s.walkers.set w ws }

/-- The memory reader's image changes (R54). -/
def setMem (s : State) (m : Memory) : State := { s with reader := { s.reader with mem := m } }

/-- A value leaves the block. -/
def reply (s : State) (r : Reply) : State := { s with replies := s.replies ++ [r] }

/-- An operation of R90 that only computes a value (R102): the value goes to the caller. -/
def answerCall (r : Reply) (s : State) : Result := .next (reply s r)

/-- The effect of an entry class of level `lvl` on the walk of the active instance (R127). -/
def onWalk (lvl : Level) (effect : Walk → WalkState) (s : State) : Result :=
  match s.walkers[s.active]? with
  | some (.walking k) =>
      if k.wp.level = lvl then .next (setWalker s s.active (effect k)) else .refused .wrongLevel
  | some .idle => .refused .noWalkInProgress
  | some (.done _ _) => .refused .noWalkInProgress
  | none => .refused .noSuchInstance

end Sys2Proof.Machine
end

