-- ==== Sys2Proof/Machine/Address.lean ====
section
/-! DEFINITION. Machine/Address.lean: the address operations as called by a requester (R120 to R125, R141 to R143). -/

namespace Sys2Proof.Machine

/-- R120. -/
def execFrameBase (src : Word) (s : State) : Result := answerCall (.word (frameBase src)) s

/-- R121. -/
def execIndex (lvl : Level) (va : Word) (s : State) : Result := answerCall (.word (index lvl va)) s

/-- R122. -/
def execEntryAddrPml4 (base va : Word) (s : State) : Result := answerCall (.word (entryAddr .pml4 base va)) s

/-- R123. -/
def execEntryAddrPdpt (base va : Word) (s : State) : Result := answerCall (.word (entryAddr .pdpt base va)) s

/-- R124. -/
def execEntryAddrPd (base va : Word) (s : State) : Result := answerCall (.word (entryAddr .pd base va)) s

/-- R125. -/
def execEntryAddrPt (base va : Word) (s : State) : Result := answerCall (.word (entryAddr .pt base va)) s

/-- R141. -/
def execPageAddr4k (e va : Word) (s : State) : Result := answerCall (.word (pageAddr4k e va)) s

/-- R142. -/
def execPageAddr1g (e va : Word) (s : State) : Result := answerCall (.word (pageAddr1g e va)) s

/-- R143: the walker uses it only under `MAP_2M`; a direct call computes the formula under every policy (log entry 11). -/
def execPageAddr2m (e va : Word) (s : State) : Result := answerCall (.word (pageAddr2m e va)) s

end Sys2Proof.Machine
end

