-- ==== Sys2Proof/Machine/Codec.lean ====
section
/-! DEFINITION. Machine/Codec.lean: `select` and `install` as called by a requester (R100, R101, R104). -/

namespace Sys2Proof.Machine

/-- R100; outside the contract there is no value (R104). -/
def execSelect (x : Word) (low high : Nat) (s : State) : Result :=
  match bitRange? low high with
  | some r => answerCall (.word (select x r)) s
  | none => .refused .codecContract

/-- R101; outside the contract there is no value (R104). -/
def execInstall (value x : Word) (low high : Nat) (s : State) : Result :=
  match bitRange? low high with
  | some r => answerCall (.word (install value x r)) s
  | none => .refused .codecContract

end Sys2Proof.Machine
end

