-- ==== Sys2Proof/Machine/Pde.lean ====
section
/-! DEFINITION. Machine/Pde.lean: the classes of a PD entry (R133 to R135). -/

namespace Sys2Proof.Machine

/-- R133. -/
def effectPdeNp (k : Walk) : WalkState := raise k (.notPresent .pd)

/-- R133 `PDE.NP`, under every policy. -/
def execPdeNp (_e : Word) (s : State) : Result := onWalk .pd effectPdeNp s

/-- R134. -/
def effectPdeTbl (e : Word) (k : Walk) : WalkState := descend k .pt e

/-- R134 `PDE.TBL`. -/
def execPdeTbl (e : Word) (s : State) : Result := onWalk .pd (effectPdeTbl e) s

/-- R135: by `PD_PS_POLICY`. -/
def effectPdePs1 (c : Config) (e : Word) (k : Walk) : WalkState :=
  match c.pdPsPolicy with
  | .fault  => raise k (.unexpectedHugePage .pd)
  | .map2m  => finish k (pageAddr2m e k.va)
  | .ignore => descend k .pt e

/-- R135 `PDE.PS1`. -/
def execPdePs1 (e : Word) (s : State) : Result := onWalk .pd (effectPdePs1 s.cfg e) s

end Sys2Proof.Machine
end

