-- ==== Sys2Proof/Machine/Pdpte.lean ====
section
/-! DEFINITION. Machine/Pdpte.lean: the classes of a PDPT entry (R130 to R132). -/

namespace Sys2Proof.Machine

/-- R130. -/
def effectPdpteNp (k : Walk) : WalkState := raise k (.notPresent .pdpt)

/-- R130 `PDPTE.NP`, whatever PS holds (conflict C1). -/
def execPdpteNp (_e : Word) (s : State) : Result := onWalk .pdpt effectPdpteNp s

/-- R131. -/
def effectPdpteTbl (e : Word) (k : Walk) : WalkState := descend k .pd e

/-- R131 `PDPTE.TBL`. -/
def execPdpteTbl (e : Word) (s : State) : Result := onWalk .pdpt (effectPdpteTbl e) s

/-- R132. -/
def effectPdptePg1g (e : Word) (k : Walk) : WalkState := finish k (pageAddr1g e k.va)

/-- R132 `PDPTE.PG1G`: the walk ends here with success. -/
def execPdptePg1g (e : Word) (s : State) : Result := onWalk .pdpt (effectPdptePg1g e) s

end Sys2Proof.Machine
end

