-- ==== Sys2Proof/Machine/Pml4e.lean ====
section
/-! DEFINITION. Machine/Pml4e.lean: the classes of a PML4 entry (R128, R129). Each class has its effect on a walk and its
meaning, that effect on the active instance's walk. -/

namespace Sys2Proof.Machine

/-- R128. -/
def effectPml4eNp (k : Walk) : WalkState := raise k (.notPresent .pml4)

/-- R128 `PML4E.NP`: the rest of the entry is irrelevant. -/
def execPml4eNp (_e : Word) (s : State) : Result := onWalk .pml4 effectPml4eNp s

/-- R129. -/
def effectPml4eTbl (e : Word) (k : Walk) : WalkState := descend k .pdpt e

/-- R129 `PML4E.TBL`: bit 7 is ignored at this level (R72). -/
def execPml4eTbl (e : Word) (s : State) : Result := onWalk .pml4 (effectPml4eTbl e) s

end Sys2Proof.Machine
end

