-- ==== Sys2Proof/Machine/Pte.lean ====
section
/-! DEFINITION. Machine/Pte.lean: the classes of a PT entry (R136 to R138). A walk at the PT always ends (R25). -/

namespace Sys2Proof.Machine

/-- R136. -/
def effectPteNp (k : Walk) : WalkState := raise k (.notPresent .pt)

/-- R136 `PTE.NP`: P is tested before PS. -/
def execPteNp (_e : Word) (s : State) : Result := onWalk .pt effectPteNp s

/-- R137. -/
def effectPtePg4k (e : Word) (k : Walk) : WalkState := finish k (pageAddr4k e k.va)

/-- R137 `PTE.PG4K`. -/
def execPtePg4k (e : Word) (s : State) : Result := onWalk .pt (effectPtePg4k e) s

/-- R138. -/
def effectPtePs1 (k : Walk) : WalkState := raise k (.unexpectedHugePage .pt)

/-- R138 `PTE.PS1`. -/
def execPtePs1 (_e : Word) (s : State) : Result := onWalk .pt effectPtePs1 s

end Sys2Proof.Machine
end

