-- ==== Sys2Proof/Machine/Walk.lean ====
section
/-! DEFINITION. Machine/Walk.lean: `read_u64`, `classify`, `walk_step` and `translate` as called by a requester (R44, R127,
R140, R150), the fetch of a walk step of an instance, and the pseudocode of R150 as it stands. -/

namespace Sys2Proof.Machine

/-- The effect of a fetched entry on the walk that fetched it: the inner `case` of R140. -/
def entryEffect (c : Config) (k : Walk) (e : Word) : WalkState :=
  match classify k.wp.level e with
  | .pml4eNp   => effectPml4eNp k
  | .pml4eTbl  => effectPml4eTbl e k
  | .pdpteNp   => effectPdpteNp k
  | .pdpteTbl  => effectPdpteTbl e k
  | .pdptePg1g => effectPdptePg1g e k
  | .pdeNp     => effectPdeNp k
  | .pdeTbl    => effectPdeTbl e k
  | .pdePs1    => effectPdePs1 c e k
  | .pteNp     => effectPteNp k
  | .ptePg4k   => effectPtePg4k e k
  | .ptePs1    => effectPtePs1 k

/-- The effect of the memory reader's answer on the walk: the outer `case` of R140. -/
def answerEffect (c : Config) (k : Walk) (r : ReadResult) : WalkState :=
  match r with
  | .fault i => raise k (.accessFault i)
  | .ok e => entryEffect c k e

/-- R140 `walk_step`: one level of a walk. -/
def stepWalk (k : Walk) (s : State) : WalkState × State :=
  let p := readEntry k s
  (answerEffect s.cfg k p.1, p.2)

/-- R151: walk steps until the walk is no longer in progress, at most `n` of them. -/
def iterateWalk (n : Nat) (k : Walk) (s : State) : WalkState × State :=
  match n with
  | 0 => (.walking k, s)
  | m + 1 =>
      match stepWalk k s with
      | (.walking k', s') => iterateWalk m k' s'
      | (.done r nr, s') => (.done r nr, s')
      | (.idle, s') => (.idle, s')

/-- R44. -/
def execReadU64 (a : Word) (s : State) : Result :=
  answerCall (.read (memRead s.cfg s.reader a).1) { s with reader := (memRead s.cfg s.reader a).2 }

/-- R127. -/
def execClassify (lvl : Level) (e : Word) (s : State) : Result := answerCall (.cls (classify lvl e)) s

/-- R140, called on a walk state; its operand is a state of a walk in progress (R24). Two points are the model's choice: a
read count that does not go with the level is accepted as R140's pseudocode has it, and a count of 3 above the PT can then
give `Walking` with 4, which R24's range does not have (log entry 21); and the read event carries the identity that the
operand carries (log entry 22). -/
def execWalkStep (k : Walk) (s : State) : Result :=
  if legalWalk k then answerCall (.walkState (stepWalk k s).1) (stepWalk k s).2 else .refused .notAWalkState

/-- R150, R151: the walk from its start state, as a walk of its own; the memory reader answers each read separately. -/
def execTranslate (tb va : Word) (s : State) : Result :=
  match iterateWalk 4 (startWalk s.nWalks tb va) { s with nWalks := s.nWalks + 1 } with
  | (.done r _, s') => answerCall (.result r) s'
  | (.walking _, _) => .fault .walkUnfinished
  | (.idle, _) => .fault .walkUnfinished

/-! ## The fetch of a walk step -/

/-- What the read of a walk step gives the machine to run. -/
inductive Fetched where
  | entry (i : Instr) (s : State)  -- the entry-class instruction to run, and the state to run it in
  | ended (s : State)              -- the read was answered with a fault and the walk is over (R183)
  | stopped (r : Refusal)          -- the instance has no walk in progress

/-- The read of instance `w`'s next walk step, and the decoding of the entry it fetched (R140). -/
def fetch (w : Nat) (s : State) : Fetched :=
  match s.walkers[w]? with
  | some (.walking k) =>
      match readEntry k { s with active := w } with
      | (.ok e, s') => .entry (decodeEntry k.wp.level e) s'
      | (.fault i, s') => .ended (setWalker s' w (raise k (.accessFault i)))
  | some .idle => .stopped .noWalkInProgress
  | some (.done _ _) => .stopped .noWalkInProgress
  | none => .stopped .noSuchInstance

/-! ## The pseudocode of R150 -/

/-- R150 as its pseudocode stands, over a reader that answers by address. `translate` above is the iteration of
`walk_step`; that the two agree is a statement (R151). -/
def translatePseudocode (policy : PdPsPolicy) (read : Word → ReadResult) (tb va : Word) : WalkResult :=
  let a1 := install (select va (indexField .pml4)) (frameBase tb) slotField
  match read a1 with
  | .fault i => .err (.accessFault i)
  | .ok e1 =>
  if select e1 presentField = 0 then .err (.notPresent .pml4) else
  let a2 := install (select va (indexField .pdpt)) (frameBase e1) slotField
  match read a2 with
  | .fault i => .err (.accessFault i)
  | .ok e2 =>
  if select e2 presentField = 0 then .err (.notPresent .pdpt) else
  if select e2 pageSizeField = 1 then
    .ok (install (select va offset1g) (select e2 frameField <<< 30) offset1g) else
  let a3 := install (select va (indexField .pd)) (frameBase e2) slotField
  match read a3 with
  | .fault i => .err (.accessFault i)
  | .ok e3 =>
  if select e3 presentField = 0 then .err (.notPresent .pd) else
  if select e3 pageSizeField = 1 ∧ policy = .fault then .err (.unexpectedHugePage .pd) else
  if select e3 pageSizeField = 1 ∧ policy = .map2m then
    .ok (install (select va offset2m) (select e3 frameField <<< 21) offset2m) else
  let a4 := install (select va (indexField .pt)) (frameBase e3) slotField
  match read a4 with
  | .fault i => .err (.accessFault i)
  | .ok e4 =>
  if select e4 presentField = 0 then .err (.notPresent .pt) else
  if select e4 pageSizeField = 1 then .err (.unexpectedHugePage .pt) else
  .ok (install (select va offset4k) (select e4 frameField <<< 12) offset4k)

end Sys2Proof.Machine
end

