-- ==== Sys2Proof/Machine/Dispatch.lean ====
section
/-! DEFINITION. Machine/Dispatch.lean: the meaning of every instruction, one arm per constructor of Instr. -/

namespace Sys2Proof.Machine

def exec (i : Instr) (s : State) : Host.Outcome State Fault Refusal :=
  match i with
  -- entry classes
  | .pml4eNp e => Sys2Proof.Machine.execPml4eNp e s
  | .pml4eTbl e => Sys2Proof.Machine.execPml4eTbl e s
  | .pdpteNp e => Sys2Proof.Machine.execPdpteNp e s
  | .pdpteTbl e => Sys2Proof.Machine.execPdpteTbl e s
  | .pdptePg1g e => Sys2Proof.Machine.execPdptePg1g e s
  | .pdeNp e => Sys2Proof.Machine.execPdeNp e s
  | .pdeTbl e => Sys2Proof.Machine.execPdeTbl e s
  | .pdePs1 e => Sys2Proof.Machine.execPdePs1 e s
  | .pteNp e => Sys2Proof.Machine.execPteNp e s
  | .ptePg4k e => Sys2Proof.Machine.execPtePg4k e s
  | .ptePs1 e => Sys2Proof.Machine.execPtePs1 e s
  -- operations
  | .select x low high => Sys2Proof.Machine.execSelect x low high s
  | .install value x low high => Sys2Proof.Machine.execInstall value x low high s
  | .readU64 a => Sys2Proof.Machine.execReadU64 a s
  | .translate tb va => Sys2Proof.Machine.execTranslate tb va s
  | .frameBase src => Sys2Proof.Machine.execFrameBase src s
  | .index lvl va => Sys2Proof.Machine.execIndex lvl va s
  | .entryAddrPml4 base va => Sys2Proof.Machine.execEntryAddrPml4 base va s
  | .entryAddrPdpt base va => Sys2Proof.Machine.execEntryAddrPdpt base va s
  | .entryAddrPd base va => Sys2Proof.Machine.execEntryAddrPd base va s
  | .entryAddrPt base va => Sys2Proof.Machine.execEntryAddrPt base va s
  | .classify lvl e => Sys2Proof.Machine.execClassify lvl e s
  | .pageAddr4k e va => Sys2Proof.Machine.execPageAddr4k e va s
  | .pageAddr1g e va => Sys2Proof.Machine.execPageAddr1g e va s
  | .pageAddr2m e va => Sys2Proof.Machine.execPageAddr2m e va s
  | .walkStep k => Sys2Proof.Machine.execWalkStep k s

end Sys2Proof.Machine
end

