-- ==== Sys2Proof/Machine/Moves.lean ====
section
/-! DEFINITION. Machine/Moves.lean: the moves of the agents around a walk step: the request and the response of an instance
(R26, R27), and what the memory reader and the other writers do (R54, decision D18). -/

namespace Sys2Proof.Machine

/-- R26: an Idle instance takes a request; nothing is read. -/
def takeRequest (w : Nat) (tb va : Word) (s : State) : Result :=
  match s.walkers[w]? with
  | some .idle => .next (setWalker { s with nWalks := s.nWalks + 1 } w (.walking (startWalk s.nWalks tb va)))
  | some (.walking _) => .refused .instanceNotIdle
  | some (.done _ _) => .refused .instanceNotIdle
  | none => .refused .noSuchInstance

/-- R27: a finished walk's result is delivered and the instance is Idle again, holding nothing of the walk. -/
def deliver (w : Nat) (s : State) : Result :=
  match s.walkers[w]? with
  | some (.done r _) => .next (reply (setWalker s w .idle) (.response w r))
  | some .idle => .refused .nothingToDeliver
  | some (.walking _) => .refused .nothingToDeliver
  | none => .refused .noSuchInstance

/-- R54: another writer stores eight bytes. That they can then be read, also where they could not be read before, is the
model's choice: R46 and R52 leave what can be read to the memory reader (log entry 24). -/
def storeMove (a v : Word) (s : State) : Result := .next (setMem s (writeWord s.reader.mem a v))

/-- R54: another writer stores one byte, which can then be read (the model's choice, log entry 24). -/
def pokeMove (a : Word) (b : Byte) (s : State) : Result := .next (setMem s (writeByte s.reader.mem a.toNat b))

/-- R46: an address stops being readable. -/
def unmapMove (a : Word) (s : State) : Result := .next (setMem s (eraseByte s.reader.mem a.toNat))

/-- R54, U6: the memory reader decides how it will answer a later read (log entry 18); what it decides on carries
information of the type `FaultInfo` (R7). -/
def answerMove (x : Answer) (s : State) : Result :=
  if answerInType s.cfg.faultInfos x then .next { s with reader := { s.reader with answers := s.reader.answers ++ [x] } }
  else .refused .notAnAnswer

end Sys2Proof.Machine
end

