-- ==== Sys2Proof/Machine/Step.lean ====
section
/-! DEFINITION. Machine/Step.lean: one step of the machine: the next move on the agenda. -/

namespace Sys2Proof.Machine

/-- The next move on the agenda takes place. With nothing on the agenda nothing happens: "the block does nothing until a
request arrives" (R33), and a read that is never answered is a walk step that never comes up (R61; log entry 8). -/
def step (s : State) : Host.Outcome State Fault Refusal :=
  match s.agenda with
  | [] => .next s
  | .walk w :: rest =>
      match fetch w { s with agenda := rest } with
      | .entry i s' => exec i s'
      | .ended s' => .next s'
      | .stopped r => .refused r
  | .call i :: rest => if i.isOperation then exec i { s with agenda := rest } else .refused .notAnOperation
  | .request w tb va :: rest => takeRequest w tb va { s with agenda := rest }
  | .respond w :: rest => deliver w { s with agenda := rest }
  | .store a v :: rest => storeMove a v { s with agenda := rest }
  | .poke a b :: rest => pokeMove a b { s with agenda := rest }
  | .unmap a :: rest => unmapMove a { s with agenda := rest }
  | .answer x :: rest => answerMove x { s with agenda := rest }

/-- The host's probe: instance 0 has just taken a request for the table base 0 and the virtual address 0, its first walk
step comes next and reads the PML4E at address 0, and that entry is the word given (log entry 9). -/
def State.withFetchWord (s : State) (nbits w : Nat) : State :=
  { s with
    walkers := .walking (startWalk s.nWalks 0 0) :: s.walkers.tail
    reader  := { s.reader with mem := writeWord s.reader.mem 0 (BitVec.ofNat 64 (w % 2 ^ nbits)), answers := [] }
    agenda  := .walk 0 :: s.agenda
    nWalks  := s.nWalks + 1 }

end Sys2Proof.Machine
end

