-- ==== Sys2Proof/Machine/Ports.lean ====
section
/-! DEFINITION. Machine/Ports.lean: the numeric codes of a bit-level response port (R31, R184; decision D9). No step uses
them. -/

namespace Sys2Proof.Machine

/-- R184 `rsp.tag`. -/
def tagCode : WalkResult → Nat
  | .ok _ => 0
  | .err (.notPresent _) => 1
  | .err (.unexpectedHugePage _) => 2
  | .err (.accessFault _) => 3

/-- R184 `rsp.level`, meaningful for `NotPresent` and `UnexpectedHugePage` only (R31). -/
def levelCode : WalkResult → Option Nat
  | .ok _ => none
  | .err (.notPresent l) => some (ordinal l)
  | .err (.unexpectedHugePage l) => some (ordinal l)
  | .err (.accessFault _) => none

/-- R31 `rsp.pa`, meaningful for `Ok` only. -/
def addressSignal : WalkResult → Option Word
  | .ok pa => some pa
  | .err _ => none

/-- R31 `rsp.info`, meaningful for `AccessFault` only. -/
def infoSignal : WalkResult → Option FaultInfo
  | .ok _ => none
  | .err (.notPresent _) => none
  | .err (.unexpectedHugePage _) => none
  | .err (.accessFault i) => some i

end Sys2Proof.Machine
end

