-- ==== Sys2Proof/Safety.lean ====
section
/-! DEFINITION. Safety.lean: what a safe state is: what every reachable state of the machine satisfies (R24, R25, R42, R154,
R185), in the terms the statements use. -/

namespace Sys2Proof.Machine

/-- R154, R156, R182, R185: a result and the number of reads a walk makes for it. A 4 KiB result has bits 63:52 zero and a
2 MiB result bits 63:61 (R78). -/
def legalDone (c : Config) (r : WalkResult) (n : Nat) : Bool :=
  match r with
  | .ok pa =>
      decide ((n = 2)
        ∨ (n = 3 ∧ c.pdPsPolicy = .map2m ∧ pa.extractLsb' 61 3 = 0)
        ∨ (n = 4 ∧ pa.extractLsb' 52 12 = 0))
  | .err (.notPresent l) => decide (n = ordinal l + 1)
  | .err (.unexpectedHugePage l) =>
      decide ((l = .pd ∧ n = 3 ∧ c.pdPsPolicy = .fault) ∨ (l = .pt ∧ n = 4))
  | .err (.accessFault _) => decide (1 ≤ n ∧ n ≤ 4)

/-- R24, R25: the walk pointer holds a frame base, and the walk has made one read for each level above the one it reads
next. -/
def legalWalkState (c : Config) (ws : WalkState) : Bool :=
  match ws with
  | .idle => true
  | .walking k => decide (frameBase k.wp.base = k.wp.base ∧ k.nreads = ordinal k.wp.level)
  | .done r n => legalDone c r n

/-- R42, R49: the address of a read event is 8-byte aligned and below 2^52. -/
def legalEvent (ev : ReadEvent) : Bool :=
  decide (ev.addr.extractLsb' 0 3 = 0 ∧ ev.addr.extractLsb' 52 12 = 0)

/-- A safe state: at least one instance (R7), every instance in a legal walk state, every read so far at a legal address,
and the memory reader's image in its canonical form. -/
abbrev SafeState (s : State) : Prop :=
  s.walkers ≠ [] ∧ (∀ ws ∈ s.walkers, legalWalkState s.cfg ws = true) ∧ (∀ ev ∈ s.events, legalEvent ev = true)
    ∧ Memory.wf s.reader.mem

/-- Whether a walk's result carries information of the type `FaultInfo` (R7). -/
def resultInType (t : FaultInfoType) (r : WalkResult) : Bool :=
  match r with
  | .ok _ => true
  | .err (.notPresent _) => true
  | .err (.unexpectedHugePage _) => true
  | .err (.accessFault i) => infoInType t i

/-- Whether a walk state carries information of the type. -/
def walkStateInType (t : FaultInfoType) (ws : WalkState) : Bool :=
  match ws with
  | .idle => true
  | .walking _ => true
  | .done r _ => resultInType t r

/-- Whether what leaves the block carries information of the type. -/
def replyInType (t : FaultInfoType) (r : Reply) : Bool :=
  match r with
  | .response _ r => resultInType t r
  | .result r => resultInType t r
  | .word _ => true
  | .read r => readInType t r
  | .cls _ => true
  | .walkState ws => walkStateInType t ws

/-- R7, D8: every fault information in the state is of the type that the parameter `Config.faultInfos` gives. -/
abbrev TypedState (s : State) : Prop :=
  (∀ ws ∈ s.walkers, walkStateInType s.cfg.faultInfos ws = true)
    ∧ (∀ x ∈ s.reader.answers, answerInType s.cfg.faultInfos x = true)
    ∧ (∀ ev ∈ s.events, readInType s.cfg.faultInfos ev.answer = true)
    ∧ (∀ r ∈ s.replies, replyInType s.cfg.faultInfos r = true)

end Sys2Proof.Machine
end

