-- ==== Sys2Proof/Certificates/Slice0/Obligations.lean ====
section
/-! DEFINITION. Certificates/Slice0/Obligations.lean: the statements for the provers. A docstring names the rule a statement
formalises; where a statement rests on one of the spec's own decisions (D<n>) or derivations, or on a choice of the model
(log entry <n>), the docstring says so. The latches, the step form and the ports are the spec's own framing (D1, D2); the moves
and the agenda are the model's (log entry 1). Every `exec … = .next { s with … }` states the frame too: the fields not named there,
memory among them, are those of `s`. -/

open Sys2Proof Sys2Proof.Machine

/-! ## The codec -/

/-- R100: `select` answers bits `low..high` of `x`, right-justified, and nothing else changes. -/
def Obligations.SelectReturnsFieldRightJustified : Prop :=
  ∀ (x : Word) (low high : Nat) (s : State), low ≤ high → high ≤ 63 →
    ∃ v : Word, exec (.select x low high) s = .next { s with replies := s.replies ++ [.word v] }
      ∧ v.toNat = (x.toNat >>> low) % 2 ^ (high - low + 1)
      ∧ ∀ i < 64, v.getLsbD i = (decide (i < high - low + 1) && x.getLsbD (low + i))

/-- R101: `install` answers `x` with bits `low..high` replaced by the low bits of `value`, and nothing else changes. -/
def Obligations.InstallReplacesOnlyTheField : Prop :=
  ∀ (value x : Word) (low high : Nat) (s : State), low ≤ high → high ≤ 63 →
    ∃ v : Word, exec (.install value x low high) s = .next { s with replies := s.replies ++ [.word v] }
      ∧ ∀ i < 64, v.getLsbD i = if low ≤ i ∧ i ≤ high then value.getLsbD (i - low) else x.getLsbD i

/-- R104, decision D12 of the spec: outside the contract the codec is refused and gives no value. -/
def Obligations.CodecRefusesOutsideContract : Prop :=
  ∀ (value x : Word) (low high : Nat) (s : State), ¬ (low ≤ high ∧ high ≤ 63) →
    exec (.select x low high) s = .refused .codecContract
      ∧ exec (.install value x low high) s = .refused .codecContract

/-- R103: installing a selected field gives the word back, and `install` leaves every other bit alone. -/
def Obligations.CodecRoundTrip : Prop :=
  ∀ (x : Word) (r : BitRange),
    install (select x r) x r = x
      ∧ ∀ (v : Word) (i : Nat), ¬ (r.low ≤ i ∧ i ≤ r.high) → (install v x r).getLsbD i = x.getLsbD i

/-- R105 (derived by the spec from R100 and R101): the ten laws of the codec, in the rule's order. -/
def Obligations.CodecLaws : Prop :=
  (∀ (v x : Word) (r : BitRange), (select (install v x r) r).toNat = v.toNat % 2 ^ r.width)
  ∧ (∀ (x : Word) (r : BitRange), install (select x r) x r = x)
  ∧ (∀ (v v' x : Word) (r : BitRange), install v (install v' x r) r = install v x r)
  ∧ (∀ (v v' x : Word) (r q : BitRange), r.high < q.low ∨ q.high < r.low →
      select (install v x r) q = select x q ∧ install v (install v' x q) r = install v' (install v x r) q)
  ∧ (∀ (v x : Word) (r : BitRange), install v x r = install (BitVec.ofNat 64 (v.toNat % 2 ^ r.width)) x r)
  ∧ (∀ (x : Word) (r : BitRange), (select x r).toNat < 2 ^ r.width)
  ∧ (∀ (v x : Word) (r : BitRange), r.low = 0 → r.high = 63 → select x r = x ∧ install v x r = v)
  ∧ (∀ (v x : Word) (r : BitRange), (∀ i, r.low ≤ i → i ≤ r.high → x.getLsbD i = false) →
      install v x r = x ||| (BitVec.ofNat 64 (v.toNat % 2 ^ r.width) <<< r.low)
        ∧ install v x r = x + (BitVec.ofNat 64 (v.toNat % 2 ^ r.width) <<< r.low))
  ∧ (∀ (x : Word) (r top rest : BitRange), top.low = r.low → top.high = 63 → rest.low = 0 → rest.high = r.high - r.low →
      select x r = select (select x top) rest)
  ∧ (∀ (x y : Word) (r : BitRange) (i : Nat),
      (install (select x r) y r).getLsbD i = if r.low ≤ i ∧ i ≤ r.high then x.getLsbD i else y.getLsbD i)

/-! ## Addresses -/

/-- R120: `frame_base` keeps bits 51:12 and nothing else. -/
def Obligations.FrameBaseKeepsTheFrame : Prop :=
  ∀ (src : Word) (s : State),
    exec (.frameBase src) s = .next { s with replies := s.replies ++ [.word (src &&& 0x000FFFFFFFFFF000)] }
      ∧ src &&& 0x000FFFFFFFFFF000 = ((src >>> 12) &&& 0xFFFFFFFFFF) <<< 12

/-- R121, R70: `index` at each level, a 9-bit number. -/
def Obligations.IndexIsTheLevelSlice : Prop :=
  ∀ (va : Word) (s : State),
    exec (.index .pml4 va) s = .next { s with replies := s.replies ++ [.word ((va >>> 39) &&& 0x1FF)] }
    ∧ exec (.index .pdpt va) s = .next { s with replies := s.replies ++ [.word ((va >>> 30) &&& 0x1FF)] }
    ∧ exec (.index .pd va) s = .next { s with replies := s.replies ++ [.word ((va >>> 21) &&& 0x1FF)] }
    ∧ exec (.index .pt va) s = .next { s with replies := s.replies ++ [.word ((va >>> 12) &&& 0x1FF)] }

/-- R122 to R125: the four entry addresses over a frame base; nothing is read. -/
def Obligations.EntryAddressesPlaceTheIndex : Prop :=
  ∀ (base va : Word) (s : State), base &&& 0x000FFFFFFFFFF000 = base →
    exec (.entryAddrPml4 base va) s
      = .next { s with replies := s.replies ++ [.word (base ||| (((va >>> 39) &&& 0x1FF) <<< 3))] }
    ∧ exec (.entryAddrPdpt base va) s
      = .next { s with replies := s.replies ++ [.word (base ||| (((va >>> 30) &&& 0x1FF) <<< 3))] }
    ∧ exec (.entryAddrPd base va) s
      = .next { s with replies := s.replies ++ [.word (base ||| (((va >>> 21) &&& 0x1FF) <<< 3))] }
    ∧ exec (.entryAddrPt base va) s
      = .next { s with replies := s.replies ++ [.word (base ||| (((va >>> 12) &&& 0x1FF) <<< 3))] }

/-- R80: the four entry-address operations: the index at bits 11:3, the base elsewhere. R80's base is a frame base; that any
other base is computed with too is the model's choice (log entry 11). -/
def Obligations.EntryAddressBits : Prop :=
  ∀ (base va : Word) (s : State),
    ∃ a4 a3 a2 a1 : Word,
      exec (.entryAddrPml4 base va) s = .next { s with replies := s.replies ++ [.word a4] }
      ∧ exec (.entryAddrPdpt base va) s = .next { s with replies := s.replies ++ [.word a3] }
      ∧ exec (.entryAddrPd base va) s = .next { s with replies := s.replies ++ [.word a2] }
      ∧ exec (.entryAddrPt base va) s = .next { s with replies := s.replies ++ [.word a1] }
      ∧ ∀ i < 64,
        a4.getLsbD i = (if 3 ≤ i ∧ i ≤ 11 then va.getLsbD (i + 36) else base.getLsbD i)
        ∧ a3.getLsbD i = (if 3 ≤ i ∧ i ≤ 11 then va.getLsbD (i + 27) else base.getLsbD i)
        ∧ a2.getLsbD i = (if 3 ≤ i ∧ i ≤ 11 then va.getLsbD (i + 18) else base.getLsbD i)
        ∧ a1.getLsbD i = (if 3 ≤ i ∧ i ≤ 11 then va.getLsbD (i + 9) else base.getLsbD i)

/-- R126 (derived by the spec): every entry address over a frame base is 8-byte aligned, below 2^52, in its table's frame,
and the base plus eight times the index. -/
def Obligations.EntryAddressStaysInItsTable : Prop :=
  ∀ (lvl : Level) (base va : Word), frameBase base = base →
    (entryAddr lvl base va).extractLsb' 0 3 = 0
    ∧ (entryAddr lvl base va).extractLsb' 52 12 = 0
    ∧ (entryAddr lvl base va).extractLsb' 12 40 = base.extractLsb' 12 40
    ∧ (entryAddr lvl base va).toNat = base.toNat + 8 * (index lvl va).toNat
    ∧ (entryAddr lvl base va).toNat ≤ base.toNat + 0xFF8
    ∧ ∀ va' : Word, index lvl va' = index lvl va → entryAddr lvl base va' = entryAddr lvl base va

/-- R141: the 4 KiB page address; bits 63:52 are zero. R141's operand is an entry of the class PTE.PG4K; that any other entry
is computed with too is the model's choice (log entry 11). -/
def Obligations.PageAddress4k : Prop :=
  ∀ (e va : Word) (s : State),
    ∃ pa : Word, exec (.pageAddr4k e va) s = .next { s with replies := s.replies ++ [.word pa] }
      ∧ pa = (((e >>> 12) &&& 0xFFFFFFFFFF) <<< 12) ||| (va &&& 0xFFF)
      ∧ pa.extractLsb' 52 12 = 0 ∧ pa.extractLsb' 12 40 = e.extractLsb' 12 40
      ∧ pa.extractLsb' 0 12 = va.extractLsb' 0 12

/-- R142 with decision D5 of the spec: the 1 GiB page address, the shifted frame reduced modulo 2^64; for a frame number
below 2^34 nothing is lost. R142's operand is an entry of the class PDPTE.PG1G; that any other entry is computed with too is
the model's choice (log entry 11). -/
def Obligations.PageAddress1g : Prop :=
  ∀ (e va : Word) (s : State),
    ∃ pa : Word, exec (.pageAddr1g e va) s = .next { s with replies := s.replies ++ [.word pa] }
      ∧ pa.toNat = ((e.toNat / 2 ^ 12 % 2 ^ 40) * 2 ^ 30) % 2 ^ 64 + va.toNat % 2 ^ 30
      ∧ (e.toNat / 2 ^ 12 % 2 ^ 40 < 2 ^ 34 →
          pa.toNat = (e.toNat / 2 ^ 12 % 2 ^ 40) * 2 ^ 30 + va.toNat % 2 ^ 30)

/-- R143 with decision D4 of the spec: the 2 MiB page address, with no loss. That a direct call computes it under every
policy, and on an entry that is not of the class PDE.PS1, is the model's choice (log entry 11). -/
def Obligations.PageAddress2m : Prop :=
  ∀ (e va : Word) (s : State),
    ∃ pa : Word, exec (.pageAddr2m e va) s = .next { s with replies := s.replies ++ [.word pa] }
      ∧ pa.toNat = (e.toNat / 2 ^ 12 % 2 ^ 40) * 2 ^ 21 + va.toNat % 2 ^ 21

/-! ## Entry classes -/

/-- R84, R139: `classify` names the one class of the level whose row of the opcode table the entry matches. -/
def Obligations.ClassifyIsTheOpcodeTable : Prop :=
  ∀ (lvl : Level) (e : Word) (s : State),
    ∃ c : EntryClass, exec (.classify lvl e) s = .next { s with replies := s.replies ++ [.cls c] }
      ∧ ∀ d : EntryClass, d = c ↔ d.level = lvl ∧ e &&& classMask d = classMatch d

/-- R128, R130, R133, R136, R181: an entry with P clear is of its level's not-present class whatever else it holds, and that
class ends the active walk with `NotPresent` naming the level; one read more is counted and nothing else changes. That the
class has this effect on a word that is not of it too is the model's choice (log entry 19). -/
def Obligations.NotPresentClassesNameTheirLevel : Prop :=
  ∀ (e : Word) (k : Walk) (s : State), s.walkers[s.active]? = some (.walking k) →
    (k.wp.level = .pml4 → exec (.pml4eNp e) s
      = .next { s with walkers := s.walkers.set s.active (.done (.err (.notPresent .pml4)) (k.nreads + 1)) })
    ∧ (k.wp.level = .pdpt → exec (.pdpteNp e) s
      = .next { s with walkers := s.walkers.set s.active (.done (.err (.notPresent .pdpt)) (k.nreads + 1)) })
    ∧ (k.wp.level = .pd → exec (.pdeNp e) s
      = .next { s with walkers := s.walkers.set s.active (.done (.err (.notPresent .pd)) (k.nreads + 1)) })
    ∧ (k.wp.level = .pt → exec (.pteNp e) s
      = .next { s with walkers := s.walkers.set s.active (.done (.err (.notPresent .pt)) (k.nreads + 1)) })
    ∧ (e.getLsbD 0 = false → decodeEntry .pml4 e = .pml4eNp e ∧ decodeEntry .pdpt e = .pdpteNp e
        ∧ decodeEntry .pd e = .pdeNp e ∧ decodeEntry .pt e = .pteNp e)

/-- R129, R131, R134: the table-pointer classes move the walk pointer to the next level and the entry's frame base; at the
PML4 bit 7 does not matter. That a class has this effect on a word that is not of it too is the model's choice (log entry 19). -/
def Obligations.TableClassesDescend : Prop :=
  ∀ (e : Word) (k : Walk) (s : State), s.walkers[s.active]? = some (.walking k) →
    (k.wp.level = .pml4 → exec (.pml4eTbl e) s = .next { s with
        walkers := s.walkers.set s.active
          (.walking { va := k.va, wp := ⟨.pdpt, e &&& 0x000FFFFFFFFFF000⟩, nreads := k.nreads + 1, id := k.id }) })
    ∧ (k.wp.level = .pdpt → exec (.pdpteTbl e) s = .next { s with
        walkers := s.walkers.set s.active
          (.walking { va := k.va, wp := ⟨.pd, e &&& 0x000FFFFFFFFFF000⟩, nreads := k.nreads + 1, id := k.id }) })
    ∧ (k.wp.level = .pd → exec (.pdeTbl e) s = .next { s with
        walkers := s.walkers.set s.active
          (.walking { va := k.va, wp := ⟨.pt, e &&& 0x000FFFFFFFFFF000⟩, nreads := k.nreads + 1, id := k.id }) })
    ∧ (e.getLsbD 0 = true → decodeEntry .pml4 e = .pml4eTbl e)
    ∧ (e.getLsbD 0 = true → e.getLsbD 7 = false → decodeEntry .pdpt e = .pdpteTbl e ∧ decodeEntry .pd e = .pdeTbl e)

/-- R132: a PDPT entry with P and PS set ends the walk with the 1 GiB page address; there is no descent.
That the class has this effect on a word that is not of it too is the model's choice (log entry 19). -/
def Obligations.HugePdpteEndsTheWalk : Prop :=
  ∀ (e : Word) (k : Walk) (s : State), s.walkers[s.active]? = some (.walking k) → k.wp.level = .pdpt →
    exec (.pdptePg1g e) s
      = .next { s with walkers := s.walkers.set s.active (.done (.ok (pageAddr1g e k.va)) (k.nreads + 1)) }
    ∧ (e.getLsbD 0 = true → e.getLsbD 7 = true → decodeEntry .pdpt e = .pdptePg1g e)

/-- R135, decision D4 of the spec: a PD entry with P and PS set, by `PD_PS_POLICY`. That the class has this effect on a word
that is not of it too is the model's choice (log entry 19). -/
def Obligations.HugePdeFollowsThePolicy : Prop :=
  ∀ (e : Word) (k : Walk) (s : State), s.walkers[s.active]? = some (.walking k) → k.wp.level = .pd →
    (s.cfg.pdPsPolicy = .fault → exec (.pdePs1 e) s = .next { s with
        walkers := s.walkers.set s.active
          (.done (.err (.unexpectedHugePage .pd)) (k.nreads + 1)) })
    ∧ (s.cfg.pdPsPolicy = .map2m → exec (.pdePs1 e) s = .next { s with
        walkers := s.walkers.set s.active
          (.done (.ok (pageAddr2m e k.va)) (k.nreads + 1)) })
    ∧ (s.cfg.pdPsPolicy = .ignore → exec (.pdePs1 e) s = .next { s with
        walkers := s.walkers.set s.active
          (.walking { va := k.va, wp := ⟨.pt, e &&& 0x000FFFFFFFFFF000⟩, nreads := k.nreads + 1, id := k.id }) })
    ∧ (e.getLsbD 0 = true → e.getLsbD 7 = true → decodeEntry .pd e = .pdePs1 e)

/-- R137, R138: at the PT a present entry ends the walk, with the 4 KiB page address where PS is clear and with
`UnexpectedHugePage` where it is set. That a class has this effect on a word that is not of it too is the model's choice (log
entry 19). -/
def Obligations.PresentPteEndsTheWalk : Prop :=
  ∀ (e : Word) (k : Walk) (s : State), s.walkers[s.active]? = some (.walking k) → k.wp.level = .pt →
    exec (.ptePg4k e) s
      = .next { s with walkers := s.walkers.set s.active (.done (.ok (pageAddr4k e k.va)) (k.nreads + 1)) }
    ∧ exec (.ptePs1 e) s
      = .next { s with walkers := s.walkers.set s.active (.done (.err (.unexpectedHugePage .pt)) (k.nreads + 1)) }
    ∧ (e.getLsbD 0 = true → e.getLsbD 7 = false → decodeEntry .pt e = .ptePg4k e)
    ∧ (e.getLsbD 0 = true → e.getLsbD 7 = true → decodeEntry .pt e = .ptePs1 e)

/-- R144: in every walk step that succeeds the low bits of the result are those of the virtual address: 12 at the PT, 30 at
the PDPT, 21 at the PD; no walk succeeds at the PML4. -/
def Obligations.OffsetIsCopiedUnchanged : Prop :=
  ∀ (c : Config) (k : Walk) (r : ReadResult) (pa : Word) (n : Nat), answerEffect c k r = .done (.ok pa) n →
    (k.wp.level = .pt ∧ pa.extractLsb' 0 12 = k.va.extractLsb' 0 12)
    ∨ (k.wp.level = .pdpt ∧ pa.extractLsb' 0 30 = k.va.extractLsb' 0 30)
    ∨ (k.wp.level = .pd ∧ pa.extractLsb' 0 21 = k.va.extractLsb' 0 21)

/-- R145, R85 (derived by the spec): the outcome of a fetched entry depends on bits 0, 7 and 51:12 of the entry, on bits 47:0
of the virtual address, and on nothing else of either. -/
def Obligations.IgnoredBitsHaveNoEffect : Prop :=
  ∀ (c : Config) (k : Walk) (va' e e' : Word),
    (e'.getLsbD 0 = e.getLsbD 0 ∧ e'.getLsbD 7 = e.getLsbD 7 ∧ e'.extractLsb' 12 40 = e.extractLsb' 12 40) →
    va'.extractLsb' 0 48 = k.va.extractLsb' 0 48 →
    (∀ r n, entryEffect c k e = .done r n → entryEffect c { k with va := va' } e' = .done r n)
    ∧ (∀ j, entryEffect c k e = .walking j →
        entryEffect c { k with va := va' } e' = .walking { j with va := va' })
    ∧ walkAddr { k with va := va' } = walkAddr k

/-! ## Encoding -/

/-- R84, R92: decoding the encoding of any well-formed entry-class instruction gives it back, whatever bytes follow; an
operation has no encoding (R90). -/
def Obligations.DecodeOfEncode : Prop :=
  ∀ (i : Instr), i.wellFormed = true →
    (i.isOperation = true → encode i = none)
    ∧ (i.isOperation = false → ∃ lvl bytes, encode i = some (lvl, bytes) ∧ bytes.length = 8
        ∧ ∀ rest, decode lvl (bytes ++ rest) = .ok (i, rest))

/-- R84, R139: the other direction: eight bytes decode at every level, to a well-formed instruction of that level whose
encoding they are; fewer do not. -/
def Obligations.EncodeOfDecode : Prop :=
  ∀ (lvl : Level) (bytes : List Byte),
    (bytes.length = 8 → ∃ i, decode lvl bytes = .ok (i, []) ∧ i.wellFormed = true ∧ encode i = some (lvl, bytes))
    ∧ (bytes.length < 8 → decode lvl bytes = .error .truncated)

/-- R84: a few entries of the spec's table of derived vectors (95_test_vectors.md V5), decoded. V5 gives words; their bytes,
the one at the lowest address first, are little-endian by decision D6 of the spec (R48; log entry 15, PRESUMED). -/
def Obligations.SampleEntriesDecode : Prop :=
  decode .pml4 [0x02, 0x10, 0, 0, 0, 0, 0, 0] = .ok (.pml4eNp 0x1002, [])
  ∧ decode .pml4 [0x83, 0x10, 0, 0, 0, 0, 0, 0] = .ok (.pml4eTbl 0x1083, [])
  ∧ decode .pdpt [0x87, 0x20, 0, 0, 0, 0, 0, 0] = .ok (.pdptePg1g 0x2087, [])
  ∧ decode .pd [0x83, 0x30, 0, 0, 0, 0, 0, 0] = .ok (.pdePs1 0x3083, [])
  ∧ decode .pt [0x67, 0x40, 0, 0, 0, 0, 0, 0] = .ok (.ptePg4k 0x4067, [])
  ∧ decode .pt [0x80, 0x40, 0, 0, 0, 0, 0, 0] = .ok (.pteNp 0x4080, [])

/-! ## One step of the machine -/

/-- R140: where the bytes at the walk's entry address decode to an instruction, a walk step of the instance is the exec of
that instruction, in the state with the read recorded, the move taken and the instance active. The answer comes from the
image, or is the one the memory reader has decided on. That the read leaves the image as it was is the model's choice (log
entry 23). -/
def Obligations.StepRunsTheDecodedEntry : Prop :=
  ∀ (s : State) (w : Nat) (rest : List Move) (k : Walk), s.agenda = .walk w :: rest →
    s.walkers[w]? = some (.walking k) →
    (∀ ans bs i, (s.reader.answers = [] ∧ ans = [] ∨ s.reader.answers = .image :: ans) → frameBase k.wp.base = k.wp.base →
      readBytes s.reader.mem (walkAddr k) 8 = some bs → decode k.wp.level bs = .ok (i, []) →
      step s = exec i { s with
        agenda := rest, active := w, reader := { s.reader with answers := ans }
        events := s.events ++ [⟨k.id, k.wp.level, walkAddr k, .ok (wordOfBytes bs)⟩] })
    ∧ (∀ ans e, s.reader.answers = .given (.ok e) :: ans →
      step s = exec (decodeEntry k.wp.level e) { s with
        agenda := rest, active := w, reader := { s.reader with answers := ans }
        events := s.events ++ [⟨k.id, k.wp.level, walkAddr k, .ok e⟩] })

/-- R90: a call move runs the operation called, and an entry class cannot be called. Calls as moves are the model's (log
entries 1 and 10). -/
def Obligations.StepRunsTheCalledOperation : Prop :=
  ∀ (s : State) (i : Instr) (rest : List Move), s.agenda = .call i :: rest →
    (i.isOperation = true → step s = exec i { s with agenda := rest })
    ∧ (i.isOperation = false → step s = .refused .notAnOperation)

/-- R183 (decision D8 of the spec): where the memory reader answers a walk step with a fault, the walk ends with `AccessFault`
carrying exactly what the reader gave, at whatever level the walk is. That the read leaves memory as it was is the model's
choice (log entry 23). -/
def Obligations.AccessFaultIsPropagatedVerbatim : Prop :=
  ∀ (s : State) (w : Nat) (rest : List Move) (k : Walk) (info : FaultInfo), s.agenda = .walk w :: rest →
    s.walkers[w]? = some (.walking k) → (memRead s.cfg s.reader (walkAddr k)).1 = .fault info →
    ∃ t, step s = .next t
      ∧ t.walkers = s.walkers.set w (.done (.err (.accessFault info)) (k.nreads + 1))
      ∧ t.events = s.events ++ [⟨k.id, k.wp.level, walkAddr k, .fault info⟩]
      ∧ t.agenda = rest ∧ t.cfg = s.cfg ∧ t.reader.mem = s.reader.mem ∧ t.replies = s.replies ∧ t.nWalks = s.nWalks

/-- R140: the machine's walk step, by fetch, decode and dispatch, is the function `walk_step` on the instance's latches. -/
def Obligations.MachineStepIsWalkStep : Prop :=
  ∀ (s : State) (w : Nat) (rest : List Move) (k : Walk), s.agenda = .walk w :: rest →
    s.walkers[w]? = some (.walking k) →
    step s = .next (setWalker (stepWalk k { s with agenda := rest, active := w }).2 w
      (stepWalk k { s with agenda := rest, active := w }).1)

/-- R140: `walk_step` as its pseudocode says: one read, and an outcome by the answer, by P and by PS. On what is no state of
a walk in progress (R24) it is refused (the refusal is the model's, log entry 10). That the call is always answered is decision
D16 of the spec (log entry 8); the policy's outcomes at the PD are decision D4 (log entry 20). That a read count which does not
go with the level is accepted, and that the event carries the operand's identity, are the model's (log entries 21 and 22). -/
def Obligations.WalkStepFollowsItsPseudocode : Prop :=
  ∀ (k : Walk) (s : State),
    (¬ (frameBase k.wp.base = k.wp.base ∧ k.nreads ≤ 3) → exec (.walkStep k) s = .refused .notAWalkState)
    ∧ (frameBase k.wp.base = k.wp.base → k.nreads ≤ 3 →
      ∃ (r : ReadResult) (d : Reader) (ws : WalkState), memRead s.cfg s.reader (entryAddr k.wp.level k.wp.base k.va) = (r, d)
        ∧ exec (.walkStep k) s = .next { s with
            reader := d
            events := s.events ++ [⟨k.id, k.wp.level, entryAddr k.wp.level k.wp.base k.va, r⟩]
            replies := s.replies ++ [.walkState ws] }
        ∧ (∀ info, r = .fault info → ws = .done (.err (.accessFault info)) (k.nreads + 1))
        ∧ (∀ e, r = .ok e →
          (e.getLsbD 0 = false → ws = .done (.err (.notPresent k.wp.level)) (k.nreads + 1))
          ∧ (e.getLsbD 0 = true → (k.wp.level = .pml4 ∨ e.getLsbD 7 = false) → ∀ l, nextLevel k.wp.level = some l →
              ws = .walking { k with wp := ⟨l, frameBase e⟩, nreads := k.nreads + 1 })
          ∧ (e.getLsbD 0 = true → e.getLsbD 7 = true → k.wp.level = .pdpt →
              ws = .done (.ok (pageAddr1g e k.va)) (k.nreads + 1))
          ∧ (e.getLsbD 0 = true → e.getLsbD 7 = true → k.wp.level = .pd →
              (s.cfg.pdPsPolicy = .fault → ws = .done (.err (.unexpectedHugePage .pd)) (k.nreads + 1))
              ∧ (s.cfg.pdPsPolicy = .map2m → ws = .done (.ok (pageAddr2m e k.va)) (k.nreads + 1))
              ∧ (s.cfg.pdPsPolicy = .ignore →
                  ws = .walking { k with wp := ⟨.pt, frameBase e⟩, nreads := k.nreads + 1 }))
          ∧ (e.getLsbD 0 = true → e.getLsbD 7 = false → k.wp.level = .pt →
              ws = .done (.ok (pageAddr4k e k.va)) (k.nreads + 1))
          ∧ (e.getLsbD 0 = true → e.getLsbD 7 = true → k.wp.level = .pt →
              ws = .done (.err (.unexpectedHugePage .pt)) (k.nreads + 1))))

/-- R140: there is no step from Idle or Done: no walk step of such an instance, and no entry class on it. That such a move is
refused is the model's way to have no step (log entry 10). -/
def Obligations.NoStepFromIdleOrDone : Prop :=
  ∀ (s : State) (w : Nat), (s.walkers[w]? = some .idle ∨ ∃ r n, s.walkers[w]? = some (.done r n)) →
    (∀ rest, s.agenda = .walk w :: rest → step s = .refused .noWalkInProgress)
    ∧ (∀ i : Instr, i.isOperation = false → s.active = w → exec i s = .refused .noWalkInProgress)

/-- R26: an Idle instance that takes a request starts a walk at the PML4 and reads nothing. -/
def Obligations.RequestStartsTheWalk : Prop :=
  ∀ (s : State) (w : Nat) (tb va : Word) (rest : List Move), s.agenda = .request w tb va :: rest →
    s.walkers[w]? = some .idle →
    step s = .next { s with
      agenda := rest
      nWalks := s.nWalks + 1
      walkers := s.walkers.set w
        (.walking { va := va, wp := ⟨.pml4, tb &&& 0x000FFFFFFFFFF000⟩, nreads := 0, id := s.nWalks }) }

/-- R27: a finished walk's result is delivered, and the instance is Idle and holds nothing of the walk. -/
def Obligations.ResponseDeliversAndFrees : Prop :=
  ∀ (s : State) (w n : Nat) (r : WalkResult) (rest : List Move), s.agenda = .respond w :: rest →
    s.walkers[w]? = some (.done r n) →
    step s = .next { s with
      agenda := rest, walkers := s.walkers.set w .idle, replies := s.replies ++ [.response w r] }

/-- R33 (decision D10 of the spec): with no move to come the machine does nothing (log entry 8). -/
def Obligations.NothingHappensWithoutAMove : Prop := ∀ s : State, s.agenda = [] → step s = .next s

/-- R33, R210 (decision D10 of the spec): after reset every instance is Idle and nothing is pending or
recorded. R33 leaves memory unspecified; that no byte is listed is the model's choice (log entry 5). That the machine of
`State.reset` has two instances and the default parameters is the model's choice (log entry 7). -/
def Obligations.ResetIsIdle : Prop :=
  (∀ (n : Nat) (c : Config) (w : Nat), w < n → (State.resetWith n c).walkers[w]? = some .idle)
  ∧ (∀ (n : Nat) (c : Config), (State.resetWith n c).agenda = [] ∧ (State.resetWith n c).replies = []
      ∧ (State.resetWith n c).events = [] ∧ ∀ a, readByte (State.resetWith n c).reader.mem a = none)
  ∧ State.reset = State.resetWith 2 {}

/-! ## The memory reader and the other writers -/

/-- R44, R46: `read_u64` completes in every state (log entry 8), with the answer the memory reader has decided on (log entry 18);
or, from the image, with the little-endian word (decision D6 of the spec) where all eight bytes are listed, and with a fault
where one is not (log entry 5). A misaligned address is answered with a free value (log entry 4). Information that the image's
faults carry is of the type `FaultInfo` (log entry 3). The image stays as it is (log entry 23). -/
def Obligations.ReadU64AnswersOnce : Prop :=
  ∀ (s : State) (a : Word),
    (∀ r ans, s.reader.answers = .given r :: ans →
      exec (.readU64 a) s = .next { s with
        reader := { s.reader with answers := ans }, replies := s.replies ++ [.read r] })
    ∧ (∀ ans, (s.reader.answers = [] ∧ ans = [] ∨ s.reader.answers = .image :: ans) → a.extractLsb' 0 3 = 0 →
      (∀ v : Word, (∀ i < 8, readByte s.reader.mem (a.toNat + i) = some (v.extractLsb' (8 * i) 8)) →
        exec (.readU64 a) s = .next { s with
          reader := { s.reader with answers := ans }, replies := s.replies ++ [.read (.ok v)] })
      ∧ ((∃ i < 8, readByte s.reader.mem (a.toNat + i) = none) → ∃ info, infoInType s.cfg.faultInfos info = true ∧
        exec (.readU64 a) s = .next { s with
          reader := { s.reader with answers := ans, draws := s.reader.draws + 1 }
          replies := s.replies ++ [.read (.fault info)] }))
    ∧ (∀ ans, (s.reader.answers = [] ∧ ans = [] ∨ s.reader.answers = .image :: ans) → a.extractLsb' 0 3 ≠ 0 →
        ∃ r, readInType s.cfg.faultInfos r = true ∧
        exec (.readU64 a) s = .next { s with
          reader := { s.reader with answers := ans, draws := s.reader.draws + 1 }
          replies := s.replies ++ [.read r] })

/-- R59, R54: what another writer stores at an aligned address is what the next read of it from the image gives, with
nothing in between; every other byte reads as before. The store as a move, and that what is stored can be
read, is the model's (log entries 1, 5 and 24), and so is that the read leaves memory as it was (log entry 23). -/
def Obligations.StoreIsSeenByTheNextRead : Prop :=
  ∀ (s : State) (a v : Word) (rest : List Move), a.extractLsb' 0 3 = 0 → s.reader.answers = [] →
    s.agenda = .store a v :: .call (.readU64 a) :: rest →
    ∃ t : State, Host.Core.run Sys2Proof.core 2 s = .next t
      ∧ t.replies = s.replies ++ [.read (.ok v)] ∧ t.agenda = rest ∧ t.walkers = s.walkers ∧ t.cfg = s.cfg
      ∧ ∀ x, (∀ i < 8, x ≠ a.toNat + i) → readByte t.reader.mem x = readByte s.reader.mem x

/-- R54, R46: the other moves on memory, which are the model's (log entries 1, 5 and 24): a byte stored reads back, a byte unmapped
cannot be read any more, and every other byte and every other field is as before. -/
def Obligations.ByteMovesChangeOneByte : Prop :=
  ∀ (s : State) (a : Word) (b : Byte) (rest : List Move),
    (s.agenda = .poke a b :: rest → ∃ t : State, step s = .next t ∧ t = { s with agenda := rest, reader := { s.reader with mem := t.reader.mem } }
      ∧ readByte t.reader.mem a.toNat = some b ∧ ∀ x, x ≠ a.toNat → readByte t.reader.mem x = readByte s.reader.mem x)
    ∧ (s.agenda = .unmap a :: rest → Memory.wf s.reader.mem → ∃ t : State, step s = .next t
      ∧ t = { s with agenda := rest, reader := { s.reader with mem := t.reader.mem } }
      ∧ readByte t.reader.mem a.toNat = none ∧ ∀ x, x ≠ a.toNat → readByte t.reader.mem x = readByte s.reader.mem x)

/-- R54, U6: a step that decides on a later answer adds it after the answers decided on before and changes nothing else but the
agenda; an answer whose information is not of the type `FaultInfo` is refused (R7, D8). Such moves are the model's (log entries
3 and 18). -/
def Obligations.AnswerMoveDecidesALaterAnswer : Prop :=
  ∀ (s : State) (x : Answer) (rest : List Move), s.agenda = .answer x :: rest →
    (answerInType s.cfg.faultInfos x = true → step s = .next { s with
      agenda := rest, reader := { s.reader with answers := s.reader.answers ++ [x] } })
    ∧ (answerInType s.cfg.faultInfos x = false → step s = .refused .notAnAnswer)

/-- R47: the block performs no store: no instruction changes a byte of memory, and of the machine's steps only another
writer's store and the memory reader's unmapping do. R47 says that the block does not store; that a read has no effect of its
own on memory either is the model's choice (log entry 23). -/
def Obligations.BlockNeverStores : Prop :=
  (∀ (i : Instr) (s t : State), exec i s = .next t → ∀ a, readByte t.reader.mem a = readByte s.reader.mem a)
  ∧ (∀ (s t : State), step s = .next t →
      (∀ a v rest, s.agenda ≠ .store a v :: rest) → (∀ a b rest, s.agenda ≠ .poke a b :: rest) →
      (∀ a rest, s.agenda ≠ .unmap a :: rest) → ∀ a, readByte t.reader.mem a = readByte s.reader.mem a)

/-! ## The whole machine -/

/-- R24, R25, R42, R154 (decisions D2, D4 and derivations of the spec): every step from a safe state leads to a safe state: the
walk latches stay legal, a finished walk has a result that goes with its number of reads, every read is at an aligned address
below 2^52, and the memory reader's image keeps its canonical form (log entry 5). -/
def Obligations.StepKeepsSafeState : Prop := ∀ s t : State, SafeState s → step s = .next t → SafeState t

/-- R7, R183, D8: `FaultInfo` is a parameter: from a state whose fault information is all of the type that the parameter gives,
every step leads to such a state, since the block passes on what the memory reader gives and adds nothing. How the type stands
in the model is log entry 3. -/
def Obligations.StepKeepsFaultInfosInType : Prop := ∀ s t : State, TypedState s → step s = .next t → TypedState t

/-- The state after reset is safe, for every number of instances from 1 up and every parameter, and holds no fault information
that is not of the parameter's type. -/
def Obligations.ResetIsSafe : Prop :=
  ∀ (n : Nat) (c : Config), 1 ≤ n → SafeState (State.resetWith n c) ∧ TypedState (State.resetWith n c)

/-- R34, R7, R21: no step changes the parameters, which the model holds in the state (log entry 2), or the number of instances. -/
def Obligations.ParametersNeverChange : Prop :=
  (∀ s t : State, step s = .next t → t.cfg = s.cfg ∧ t.walkers.length = s.walkers.length)
  ∧ (∀ (i : Instr) (s t : State), exec i s = .next t → t.cfg = s.cfg ∧ t.walkers.length = s.walkers.length)

/-- R21: a step that is not an instance's own move leaves its walk state as it was. -/
def Obligations.OtherInstancesAreUndisturbed : Prop :=
  ∀ (s t : State) (v : Nat), step s = .next t →
    (∀ rest, s.agenda ≠ .walk v :: rest) → (∀ rest, s.agenda ≠ .respond v :: rest) →
    (∀ tb va rest, s.agenda ≠ .request v tb va :: rest) → t.walkers[v]? = s.walkers[v]?

/-- R158, R27, R191: a finished walk stays as it is until its response: no retry, no fallback, no further read. -/
def Obligations.DoneIsTerminal : Prop :=
  ∀ (s t : State) (w n : Nat) (r : WalkResult), s.walkers[w]? = some (.done r n) → step s = .next t →
    t.walkers[w]? = some (.done r n)
    ∨ ∃ rest, s.agenda = .respond w :: rest ∧ t.walkers[w]? = some .idle ∧ t.replies = s.replies ++ [.response w r]

/-- R25, R160: the walk pointer moves only by the instance's own walk step, and then to the next level and to the frame base
of the entry just read. -/
def Obligations.WalkPointerAdvancesOneLevel : Prop :=
  ∀ (s t : State) (w : Nat) (k j : Walk), s.walkers[w]? = some (.walking k) → t.walkers[w]? = some (.walking j) →
    step s = .next t →
    j = k ∨ ∃ rest e, s.agenda = .walk w :: rest ∧ nextLevel k.wp.level = some j.wp.level
      ∧ j = { k with wp := ⟨j.wp.level, frameBase e⟩, nreads := k.nreads + 1 }
      ∧ t.events = s.events ++ [⟨k.id, k.wp.level, walkAddr k, .ok e⟩]

/-- R21, R55 (and R22): the walks share nothing: two instances' walk steps from a readable image give the same walk states
in either order. That the one's read does not change what the other reads, nor memory, is the model's choice (log entry 23). -/
def Obligations.WalkStepsOfTwoInstancesCommute : Prop :=
  ∀ (s : State) (v w : Nat) (k j : Walk) (e f : Word) (rest : List Move), v ≠ w → s.reader.answers = [] →
    s.walkers[v]? = some (.walking k) → s.walkers[w]? = some (.walking j) →
    frameBase k.wp.base = k.wp.base → frameBase j.wp.base = j.wp.base →
    readWord s.reader.mem (walkAddr k) = some e → readWord s.reader.mem (walkAddr j) = some f →
    ∃ t u : State, Host.Core.run Sys2Proof.core 2 { s with agenda := .walk v :: .walk w :: rest } = .next t
      ∧ Host.Core.run Sys2Proof.core 2 { s with agenda := .walk w :: .walk v :: rest } = .next u
      ∧ t.walkers = u.walkers ∧ t.reader.mem = s.reader.mem ∧ u.reader.mem = s.reader.mem

/-! ## The whole walk -/

/-- R155, R154, R156, R185: `translate` completes in every state whatever the memory reader answers (log entry 8): it reads at
most four entries, at PML4, PDPT, PD, PT in that order, its result goes with the number of reads, and it changes nothing but
the record of reads, the reply, the reader's answers and the walk count. That the call is one step, and that its
reads leave memory as it was, is the model's (log entries 12 and 23). -/
def Obligations.TranslateAlwaysCompletes : Prop :=
  ∀ (s : State) (tb va : Word), ∃ (t : State) (r : WalkResult) (evs : List ReadEvent),
    exec (.translate tb va) s = .next t
    ∧ t = { s with
        reader := { s.reader with answers := t.reader.answers, draws := t.reader.draws }, events := s.events ++ evs
        replies := s.replies ++ [.result r], nWalks := s.nWalks + 1 }
    ∧ evs.map (fun ev => ev.level) = [Level.pml4, .pdpt, .pd, .pt].take evs.length
    ∧ 1 ≤ evs.length ∧ evs.length ≤ 4 ∧ legalDone s.cfg r evs.length = true
    ∧ ∀ ev ∈ evs, ev.walk = s.nWalks

/-- R54: the first read of `translate` is at the table base's PML4 entry, and each later one at the address made from the
data of the read before it. -/
def Obligations.ReadsFollowTheEntries : Prop :=
  ∀ (s t : State) (tb va : Word) (evs : List ReadEvent), exec (.translate tb va) s = .next t →
    t.events = s.events ++ evs →
    (∀ ev, evs[0]? = some ev → ev.addr = entryAddr .pml4 (frameBase tb) va)
    ∧ (∀ (n : Nat) (ev ev' : ReadEvent), evs[n]? = some ev → evs[n + 1]? = some ev' →
        ∃ e, ev.answer = .ok e ∧ e.getLsbD 0 = true ∧ ev'.addr = entryAddr ev'.level (frameBase e) va)

/-- R150: over an image that does not change, `translate` answers what the pseudocode of R150 computes from the memory
reader's answers. The outcomes at a huge PD entry are decision D4 of the spec and the 1 GiB address modulo 2^64 is decision D5;
that the call is always answered is log entry 8 (D16); that it is one step, and that no decided answer is assumed so that the
image stays the same during it, is log entry 12; that a read leaves the image as it was is log entry 23. -/
def Obligations.TranslateIsItsPseudocode : Prop :=
  ∀ (s : State) (tb va : Word), s.reader.answers = [] →
    ∃ t : State, exec (.translate tb va) s = .next t
      ∧ t.replies = s.replies
        ++ [.result (translatePseudocode s.cfg.pdPsPolicy (fun a => (memRead s.cfg s.reader a).1) tb va)]
      ∧ t.reader.mem = s.reader.mem ∧ t.walkers = s.walkers ∧ t.cfg = s.cfg ∧ t.agenda = s.agenda

/-- R151, R56 (derived by the spec): the walk of an instance, run step by step with no other move between, ends after one to
four walk steps with the result that `translate` answers from the same state, and leaves the memory reader the same.
That `translate` as called is one step is the model's (log entry 12). -/
def Obligations.SteppedWalkIsTranslate : Prop :=
  ∀ (s : State) (w id : Nat) (tb va : Word), s.walkers[w]? = some (.walking (startWalk id tb va)) →
    ∃ (n : Nat) (r : WalkResult) (u : State), 1 ≤ n ∧ n ≤ 4
      ∧ exec (.translate tb va) s = .next u ∧ u.replies = s.replies ++ [.result r]
      ∧ ∀ rest : List Move, ∃ t : State,
        Host.Core.run Sys2Proof.core n { s with agenda := List.replicate n (.walk w) ++ rest } = .next t
        ∧ t.walkers = s.walkers.set w (.done r n) ∧ t.agenda = rest ∧ t.replies = s.replies
        ∧ t.reader = u.reader

/-- R152, R22, R23: given the memory reader, the result of `translate` is a function of the table base, the virtual address and
the parameters alone: nothing persists from what happened before, and no translation is cached. -/
def Obligations.NothingPersistsBetweenWalks : Prop :=
  ∀ (s s' : State) (tb va : Word), s'.reader = s.reader → s'.cfg = s.cfg →
    ∃ (r : WalkResult) (t t' : State), exec (.translate tb va) s = .next t ∧ exec (.translate tb va) s' = .next t'
      ∧ t.replies = s.replies ++ [.result r] ∧ t'.replies = s'.replies ++ [.result r] ∧ t'.reader = t.reader

/-- R29, R41 (derived by the spec): a table base's bits 63:52 and 11:0 and a virtual address's bits 63:48 have no effect on
`translate`. -/
def Obligations.TranslateIgnoresUnusedBits : Prop :=
  ∀ (s : State) (tb tb' va va' : Word), tb'.extractLsb' 12 40 = tb.extractLsb' 12 40 →
    va'.extractLsb' 0 48 = va.extractLsb' 0 48 → exec (.translate tb' va') s = exec (.translate tb va) s

/-- R157: the source's three properties of a walk, whatever the memory reader answers: where every entry consulted has
P set, and PS clear below the PML4, four are consulted, and the result is the PTE's frame and the low 12 bits of the virtual
address; a present huge PDPT entry gives the low 30 bits and no further read; an
entry with P clear gives `NotPresent` at its level and no further read. -/
def Obligations.SourceProperties : Prop :=
  ∀ (s t : State) (tb va : Word) (evs : List ReadEvent) (r : WalkResult), exec (.translate tb va) s = .next t →
    t.events = s.events ++ evs → t.replies = s.replies ++ [.result r] →
    ((∀ ev ∈ evs, ∃ e, ev.answer = .ok e ∧ e.getLsbD 0 = true ∧ (ev.level ≠ .pml4 → e.getLsbD 7 = false)) →
      ∃ (ev1 ev2 ev3 ev4 : ReadEvent) (e4 pa : Word), evs = [ev1, ev2, ev3, ev4] ∧ ev4.level = .pt ∧ ev4.answer = .ok e4
        ∧ r = .ok pa ∧ pa.extractLsb' 0 12 = va.extractLsb' 0 12
        ∧ pa.extractLsb' 12 52 = (e4.extractLsb' 12 40).setWidth 52)
    ∧ (∀ ev ∈ evs, ∀ e, ev.answer = .ok e → ev.level = .pdpt → e.getLsbD 0 = true → e.getLsbD 7 = true →
      ∃ pa : Word, r = .ok pa ∧ pa.extractLsb' 0 30 = va.extractLsb' 0 30 ∧ evs.length = 2
        ∧ ∀ ev' ∈ evs, ev'.level ≠ .pd ∧ ev'.level ≠ .pt)
    ∧ (∀ ev ∈ evs, ∀ e, ev.answer = .ok e → e.getLsbD 0 = false →
      r = .err (.notPresent ev.level) ∧ evs.getLast? = some ev)

/-- R157, R154: where the memory reader's answers to the reads of a valid four-level chain, in their order and whether decided
on or from the image, are entries with P set and with PS clear below the PML4, `translate` answers the PTE's frame with the
page offset; and where they are a present PML4E and a PDPTE with P and PS set, the 1 GiB address, after two reads. Everything
else is as before. That the call is always answered, and as one step, is the model's (log entries 8 and 12). -/
def Obligations.ValidChainTranslates : Prop :=
  ∀ (s : State) (tb va e1 e2 : Word) (m1 m2 : Reader),
    memRead s.cfg s.reader (entryAddr .pml4 (frameBase tb) va) = (.ok e1, m1) →
    memRead s.cfg m1 (entryAddr .pdpt (frameBase e1) va) = (.ok e2, m2) →
    e1.getLsbD 0 = true → e2.getLsbD 0 = true →
    (∀ (e3 e4 : Word) (m3 m4 : Reader), e2.getLsbD 7 = false →
      memRead s.cfg m2 (entryAddr .pd (frameBase e2) va) = (.ok e3, m3) → e3.getLsbD 0 = true → e3.getLsbD 7 = false →
      memRead s.cfg m3 (entryAddr .pt (frameBase e3) va) = (.ok e4, m4) → e4.getLsbD 0 = true → e4.getLsbD 7 = false →
      exec (.translate tb va) s = .next { s with
        reader := m4
        events := s.events ++ [⟨s.nWalks, .pml4, entryAddr .pml4 (frameBase tb) va, .ok e1⟩,
          ⟨s.nWalks, .pdpt, entryAddr .pdpt (frameBase e1) va, .ok e2⟩,
          ⟨s.nWalks, .pd, entryAddr .pd (frameBase e2) va, .ok e3⟩,
          ⟨s.nWalks, .pt, entryAddr .pt (frameBase e3) va, .ok e4⟩]
        replies := s.replies ++ [.result (.ok ((((e4 >>> 12) &&& 0xFFFFFFFFFF) <<< 12) ||| (va &&& 0xFFF)))]
        nWalks := s.nWalks + 1 })
    ∧ (e2.getLsbD 7 = true → exec (.translate tb va) s = .next { s with
        reader := m2
        events := s.events ++ [⟨s.nWalks, .pml4, entryAddr .pml4 (frameBase tb) va, .ok e1⟩,
          ⟨s.nWalks, .pdpt, entryAddr .pdpt (frameBase e1) va, .ok e2⟩]
        replies := s.replies ++ [.result (.ok (pageAddr1g e2 va))]
        nWalks := s.nWalks + 1 })

/-- R193: the address tells nothing of success: 0 and the all-ones word are results of successful walks, the latter never of
a 4 KiB page. -/
def Obligations.NoAddressIsASentinel : Prop :=
  (∀ (s : State) (tb va e1 e2 e3 : Word) (ans : List Answer),
    s.reader.answers = .given (.ok e1) :: .given (.ok e2) :: .given (.ok e3) :: .given (.ok 1) :: ans →
    e1.getLsbD 0 = true → e2.getLsbD 0 = true → e3.getLsbD 0 = true → e2.getLsbD 7 = false → e3.getLsbD 7 = false →
    va.extractLsb' 0 12 = 0 →
    ∃ t, exec (.translate tb va) s = .next t ∧ t.replies = s.replies ++ [.result (.ok 0)])
  ∧ (∀ (s : State) (tb va e1 : Word) (ans : List Answer),
    s.reader.answers = .given (.ok e1) :: .given (.ok 0x00003FFFFFFFF081) :: ans → e1.getLsbD 0 = true →
    va.extractLsb' 0 30 = BitVec.allOnes 30 →
    ∃ t, exec (.translate tb va) s = .next t ∧ t.replies = s.replies ++ [.result (.ok 0xFFFFFFFFFFFFFFFF)])
  ∧ (∀ e va : Word, pageAddr4k e va ≠ 0xFFFFFFFFFFFFFFFF)

/-- R31, R184 (decisions D1 and D9 of the spec): the codes of the response port are R184's, its signals determine the result,
and each is meaningful for its own tags only. -/
def Obligations.ResponseSignalsDetermineTheResult : Prop :=
  (∀ (pa : Word) (l : Level) (i : FaultInfo), tagCode (.ok pa) = 0 ∧ tagCode (.err (.notPresent l)) = 1
    ∧ tagCode (.err (.unexpectedHugePage l)) = 2 ∧ tagCode (.err (.accessFault i)) = 3)
  ∧ (∀ l : Level, levelCode (.err (.notPresent l)) = levelCode (.err (.unexpectedHugePage l)))
  ∧ levelCode (.err (.notPresent .pml4)) = some 0 ∧ levelCode (.err (.notPresent .pdpt)) = some 1
  ∧ levelCode (.err (.notPresent .pd)) = some 2 ∧ levelCode (.err (.notPresent .pt)) = some 3
  ∧ (∀ (pa : Word) (i : FaultInfo), addressSignal (.ok pa) = some pa ∧ infoSignal (.err (.accessFault i)) = some i)
  ∧ (∀ r q : WalkResult, tagCode r = tagCode q → levelCode r = levelCode q → addressSignal r = addressSignal q →
    infoSignal r = infoSignal q → r = q)
  ∧ (∀ r : WalkResult, ((addressSignal r).isSome ↔ tagCode r = 0)
    ∧ ((levelCode r).isSome ↔ tagCode r = 1 ∨ tagCode r = 2) ∧ ((infoSignal r).isSome ↔ tagCode r = 3))
end

