-- ==== Sys2Proof/Laws/Codec.lean ====
section
/-! SUPPORT. Laws/Codec.lean: the bits of `select` and `install`, and of what the walker builds from them. Later proofs cite
these and do not unfold the codec. -/

namespace Sys2Proof.Machine

theorem width_pos (r : BitRange) : 0 < r.width := by simp [BitRange.width]

theorem low_add_width (r : BitRange) : r.low + r.width = r.high + 1 := by
  have := r.legal; simp only [BitRange.width]; omega

theorem low_add_width_le (r : BitRange) : r.low + r.width ≤ 64 := by
  have := r.legal; have := low_add_width r; omega

/-- R100: bit `i` of `select x low high` is bit `low + i` of `x` inside the field, and 0 above it. -/
@[simp] theorem getLsbD_select (x : Word) (r : BitRange) (i : Nat) :
    (select x r).getLsbD i = (decide (i < r.width) && x.getLsbD (r.low + i)) := by
  have := low_add_width_le r
  simp only [select, BitVec.getLsbD_setWidth, BitVec.getLsbD_extractLsb']
  by_cases h : i < r.width
  · simp [h, show i < 64 by omega]
  · simp [h]

theorem getLsbD_fieldMask (r : BitRange) (i : Nat) :
    (fieldMask r).getLsbD i = decide (r.low ≤ i ∧ i ≤ r.high) := by
  have := low_add_width r
  have := r.legal
  rw [Bool.eq_iff_iff]
  simp only [fieldMask, BitVec.getLsbD_shiftLeft, BitVec.getLsbD_setWidth, BitVec.getLsbD_allOnes, Bool.and_eq_true,
    decide_eq_true_eq, Bool.not_eq_true', decide_eq_false_iff_not]
  omega

/-- R101: bit `i` of `install value x low high` is bit `i - low` of `value` inside the field, and bit `i` of `x` outside. -/
@[simp] theorem getLsbD_install (v x : Word) (r : BitRange) (i : Nat) :
    (install v x r).getLsbD i = if r.low ≤ i ∧ i ≤ r.high then v.getLsbD (i - r.low) else x.getLsbD i := by
  have := low_add_width r
  have := r.legal
  simp only [install, BitVec.getLsbD_or, BitVec.getLsbD_and, BitVec.getLsbD_not, getLsbD_fieldMask,
    BitVec.getLsbD_shiftLeft, BitVec.getLsbD_setWidth]
  by_cases h : r.low ≤ i ∧ i ≤ r.high
  · simp [h, show i < 64 by omega, show i - r.low < r.width by omega, show i - r.low < 64 by omega]
  · rw [if_neg h]
    by_cases h64 : i < 64
    · by_cases hl : i < r.low
      · simp [h64, hl, h]
      · simp [h64, h, show ¬ i - r.low < r.width by omega]
    · simp [h64, BitVec.getLsbD_of_ge x i (by omega)]

/-- R71: P is bit 0. -/
theorem present_eq (e : Word) : present e = e.getLsbD 0 := by
  have h : ∀ i, (select e presentField).getLsbD i = (decide (i = 0) && e.getLsbD 0) := by
    intro i
    rw [getLsbD_select]
    by_cases hi : i = 0
    · subst hi; rfl
    · simp [hi, presentField, BitRange.width, show ¬ i < 1 by omega]
  rw [present, Bool.eq_iff_iff, decide_eq_true_eq]
  constructor
  · intro h1; have := h 0; rw [h1] at this; simpa using this.symm
  · intro h1
    apply BitVec.eq_of_getLsbD_eq
    intro i hi
    rw [h i, h1]
    simp [BitVec.getLsbD_one]

/-- R71: PS is bit 7. -/
theorem pageSize_eq (e : Word) : pageSize e = e.getLsbD 7 := by
  have h : ∀ i, (select e pageSizeField).getLsbD i = (decide (i = 0) && e.getLsbD 7) := by
    intro i
    rw [getLsbD_select]
    by_cases hi : i = 0
    · subst hi; rfl
    · simp [hi, pageSizeField, BitRange.width, show ¬ i < 1 by omega]
  rw [pageSize, Bool.eq_iff_iff, decide_eq_true_eq]
  constructor
  · intro h1; have := h 0; rw [h1] at this; simpa using this.symm
  · intro h1
    apply BitVec.eq_of_getLsbD_eq
    intro i hi
    rw [h i, h1]
    simp [BitVec.getLsbD_one]

/-- R120: a frame base has bits 51:12 of its source and nothing else. -/
theorem getLsbD_frameBase (s : Word) (i : Nat) :
    (frameBase s).getLsbD i = (decide (12 ≤ i ∧ i ≤ 51) && s.getLsbD i) := by
  simp only [frameBase, getLsbD_install, getLsbD_select, frameField, BitRange.width]
  by_cases h : 12 ≤ i ∧ i ≤ 51
  · simp [h, show i - 12 < 40 by omega, show 12 + (i - 12) = i by omega]
  · simp [h]

/-- R80: an entry address has the index at bits 11:3 and the base elsewhere. -/
theorem getLsbD_entryAddr (lvl : Level) (base va : Word) (i : Nat) :
    (entryAddr lvl base va).getLsbD i =
      if 3 ≤ i ∧ i ≤ 11 then (index lvl va).getLsbD (i - 3) else base.getLsbD i := by
  simp only [entryAddr, getLsbD_install, slotField]

end Sys2Proof.Machine
end

