-- ==== Sys2Proof/Laws/Memory.lean ====
section
/-! SUPPORT. Laws/Memory.lean: reading after writing, and that every memory operation keeps the canonical form. -/

namespace Sys2Proof.Machine

/-- Every address of an image is above a bound. -/
abbrev AllAbove (a : Nat) (m : Memory) : Prop := ∀ c ∈ m, a < c.1

theorem wf_nil : Memory.wf [] := by simp [Memory.wf]

theorem wf_cons {k : Nat} {c : Byte} {m : Memory} :
    Memory.wf ((k, c) :: m) ↔ AllAbove k m ∧ k < 2 ^ 64 ∧ Memory.wf m := by
  simp only [Memory.wf, List.pairwise_cons, List.mem_cons, forall_eq_or_imp, AllAbove]
  tauto

theorem readByte_of_allAbove {a : Nat} {m : Memory} (h : AllAbove a m) : readByte m a = none := by
  induction m with
  | nil => rfl
  | cons x m ih =>
    obtain ⟨k, c⟩ := x
    have hk : a < k := h (k, c) (by simp)
    rw [readByte, if_neg (by omega)]
    exact ih (fun y hy => h y (by simp [hy]))

@[simp] theorem readByte_writeByte_same (m : Memory) (a : Nat) (b : Byte) : readByte (writeByte m a b) a = some b := by
  induction m with
  | nil => simp [writeByte, readByte]
  | cons x m ih =>
    obtain ⟨k, c⟩ := x
    rw [writeByte]
    split
    · simp [readByte]
    · split
      · simp [readByte]
      · rw [readByte, if_neg (by omega), ih]

theorem readByte_writeByte_other (m : Memory) {a a' : Nat} (b : Byte) (h : a' ≠ a) :
    readByte (writeByte m a b) a' = readByte m a' := by
  induction m with
  | nil => simp [writeByte, readByte, h.symm]
  | cons x m ih =>
    obtain ⟨k, c⟩ := x
    rw [writeByte]
    split
    · rw [readByte, if_neg (by omega)]
    · split
      · rw [readByte, readByte, if_neg (by omega), if_neg (by omega)]
      · rw [readByte, readByte, ih]

theorem mem_writeByte {m : Memory} {a : Nat} {b : Byte} {y : Host.Cell} (h : y ∈ writeByte m a b) : y.1 = a ∨ y ∈ m := by
  induction m with
  | nil => simp only [writeByte, List.mem_singleton] at h; simp [h]
  | cons x m ih =>
    obtain ⟨k, c⟩ := x
    rw [writeByte] at h
    split at h
    · rcases List.mem_cons.1 h with rfl | h
      · simp
      · exact .inr h
    · split at h
      · rcases List.mem_cons.1 h with rfl | h
        · simp
        · exact .inr (List.mem_cons_of_mem _ h)
      · rcases List.mem_cons.1 h with rfl | h
        · simp
        · exact (ih h).imp id (List.mem_cons_of_mem _)

theorem mem_eraseByte {m : Memory} {a : Nat} {y : Host.Cell} (h : y ∈ eraseByte m a) : y ∈ m := by
  induction m with
  | nil => exact h
  | cons x m ih =>
    obtain ⟨k, c⟩ := x
    rw [eraseByte] at h
    split at h
    · exact List.mem_cons_of_mem _ h
    · rcases List.mem_cons.1 h with rfl | h
      · simp
      · exact List.mem_cons_of_mem _ (ih h)

/-- `writeByte` keeps the canonical form. -/
theorem writeByte_wf {m : Memory} {a : Nat} (b : Byte) (h : Memory.wf m) (ha : a < 2 ^ 64) : Memory.wf (writeByte m a b) := by
  induction m with
  | nil => exact wf_cons.2 ⟨by simp, ha, wf_nil⟩
  | cons x m ih =>
    obtain ⟨k, c⟩ := x
    obtain ⟨hk, hk64, hm⟩ := wf_cons.1 h
    rw [writeByte]
    split
    · refine wf_cons.2 ⟨fun y hy => ?_, ha, h⟩
      rcases List.mem_cons.1 hy with rfl | hy
      · assumption
      · exact lt_trans ‹a < k› (hk y hy)
    · split
      · subst a; exact wf_cons.2 ⟨hk, ha, hm⟩
      · refine wf_cons.2 ⟨fun y hy => ?_, hk64, ih hm⟩
        rcases mem_writeByte hy with hya | hy
        · omega
        · exact hk y hy

/-- `eraseByte` keeps the canonical form. -/
theorem eraseByte_wf {m : Memory} (a : Nat) (h : Memory.wf m) : Memory.wf (eraseByte m a) := by
  induction m with
  | nil => exact h
  | cons x m ih =>
    obtain ⟨k, c⟩ := x
    obtain ⟨hk, hk64, hm⟩ := wf_cons.1 h
    rw [eraseByte]
    split
    · exact hm
    · exact wf_cons.2 ⟨fun y hy => hk y (mem_eraseByte hy), hk64, ih hm⟩

theorem readByte_eraseByte_same {m : Memory} (a : Nat) (h : Memory.wf m) : readByte (eraseByte m a) a = none := by
  induction m with
  | nil => rfl
  | cons x m ih =>
    obtain ⟨k, c⟩ := x
    obtain ⟨hk, -, hm⟩ := wf_cons.1 h
    rw [eraseByte]
    split
    · subst k; exact readByte_of_allAbove hk
    · rw [readByte, if_neg (by assumption), ih hm]

theorem readByte_eraseByte_other (m : Memory) {a a' : Nat} (h : a' ≠ a) : readByte (eraseByte m a) a' = readByte m a' := by
  induction m with
  | nil => rfl
  | cons x m ih =>
    obtain ⟨k, c⟩ := x
    rw [eraseByte]
    split
    · subst k; rw [readByte, if_neg h.symm]
    · rw [readByte, readByte, ih]

/-- `writeBytes` keeps the canonical form. -/
theorem writeBytes_wf (bs : List Byte) : ∀ {m : Memory} (a : Word), Memory.wf m → Memory.wf (writeBytes m a bs) := by
  induction bs with
  | nil => exact fun _ h => h
  | cons b bs ih => exact fun a h => ih _ (writeByte_wf b h a.isLt)

/-- `writeWord` keeps the canonical form. -/
theorem writeWord_wf {m : Memory} (a v : Word) (h : Memory.wf m) : Memory.wf (writeWord m a v) := writeBytes_wf _ a h

/-- `writeBytes` leaves every byte outside the bytes it writes alone. -/
theorem readByte_writeBytes_other (bs : List Byte) : ∀ (m : Memory) (a : Word) (x : Nat),
    (∀ i < bs.length, x ≠ (a + BitVec.ofNat 64 i).toNat) → readByte (writeBytes m a bs) x = readByte m x := by
  induction bs with
  | nil => exact fun _ _ _ _ => rfl
  | cons b bs ih =>
    intro m a x h
    rw [writeBytes, ih _ _ _ (fun i hi => ?_), readByte_writeByte_other]
    · simpa using h 0 (by simp)
    · have := h (i + 1) (by simpa using hi)
      rwa [BitVec.add_assoc, show (1 : Word) + BitVec.ofNat 64 i = BitVec.ofNat 64 (i + 1) by
        apply BitVec.eq_of_toNat_eq; simp [Nat.add_comm]]

end Sys2Proof.Machine
end

