-- ==== Sys2Proof/Laws/State.lean ====
section
/-! SUPPORT. Laws/State.lean: every field of every named update of the state, so that no later proof unfolds one. -/

namespace Sys2Proof.Machine

variable (s : State) (w : Nat) (ws : WalkState) (r : Reply)

@[simp] theorem setWalker_walkers : (setWalker s w ws).walkers = s.walkers.set w ws := rfl
@[simp] theorem setWalker_active : (setWalker s w ws).active = s.active := rfl
@[simp] theorem setWalker_cfg : (setWalker s w ws).cfg = s.cfg := rfl
@[simp] theorem setWalker_reader : (setWalker s w ws).reader = s.reader := rfl
@[simp] theorem setWalker_agenda : (setWalker s w ws).agenda = s.agenda := rfl
@[simp] theorem setWalker_events : (setWalker s w ws).events = s.events := rfl
@[simp] theorem setWalker_replies : (setWalker s w ws).replies = s.replies := rfl
@[simp] theorem setWalker_nWalks : (setWalker s w ws).nWalks = s.nWalks := rfl

@[simp] theorem reply_walkers : (reply s r).walkers = s.walkers := rfl
@[simp] theorem reply_active : (reply s r).active = s.active := rfl
@[simp] theorem reply_cfg : (reply s r).cfg = s.cfg := rfl
@[simp] theorem reply_reader : (reply s r).reader = s.reader := rfl
@[simp] theorem reply_agenda : (reply s r).agenda = s.agenda := rfl
@[simp] theorem reply_events : (reply s r).events = s.events := rfl
@[simp] theorem reply_replies : (reply s r).replies = s.replies ++ [r] := rfl
@[simp] theorem reply_nWalks : (reply s r).nWalks = s.nWalks := rfl

variable (m : Memory)

@[simp] theorem setMem_mem : (setMem s m).reader.mem = m := rfl
@[simp] theorem setMem_answers : (setMem s m).reader.answers = s.reader.answers := rfl
@[simp] theorem setMem_draws : (setMem s m).reader.draws = s.reader.draws := rfl
@[simp] theorem setMem_walkers : (setMem s m).walkers = s.walkers := rfl
@[simp] theorem setMem_active : (setMem s m).active = s.active := rfl
@[simp] theorem setMem_cfg : (setMem s m).cfg = s.cfg := rfl
@[simp] theorem setMem_agenda : (setMem s m).agenda = s.agenda := rfl
@[simp] theorem setMem_events : (setMem s m).events = s.events := rfl
@[simp] theorem setMem_replies : (setMem s m).replies = s.replies := rfl
@[simp] theorem setMem_nWalks : (setMem s m).nWalks = s.nWalks := rfl

/-- A read leaves the memory reader's image alone. -/
@[simp] theorem memRead_mem (c : Config) (d : Reader) (a : Word) : (memRead c d a).2.mem = d.mem := by
  unfold memRead; split <;> rfl

/-- R140: the answer of a walk step's read is that of one read at the entry address. -/
@[simp] theorem readEntry_fst (k : Walk) : (readEntry k s).1 = (memRead s.cfg s.reader (walkAddr k)).1 := rfl
@[simp] theorem readEntry_reader (k : Walk) : (readEntry k s).2.reader = (memRead s.cfg s.reader (walkAddr k)).2 := rfl
@[simp] theorem readEntry_walkers (k : Walk) : (readEntry k s).2.walkers = s.walkers := rfl
@[simp] theorem readEntry_active (k : Walk) : (readEntry k s).2.active = s.active := rfl
@[simp] theorem readEntry_cfg (k : Walk) : (readEntry k s).2.cfg = s.cfg := rfl
@[simp] theorem readEntry_agenda (k : Walk) : (readEntry k s).2.agenda = s.agenda := rfl
@[simp] theorem readEntry_replies (k : Walk) : (readEntry k s).2.replies = s.replies := rfl
@[simp] theorem readEntry_nWalks (k : Walk) : (readEntry k s).2.nWalks = s.nWalks := rfl
@[simp] theorem readEntry_events (k : Walk) : (readEntry k s).2.events
    = s.events ++ [⟨k.id, k.wp.level, walkAddr k, (memRead s.cfg s.reader (walkAddr k)).1⟩] := rfl

end Sys2Proof.Machine
end

