-- ==== Sys2Proof/Laws/Ops.lean ====
section
/-! SUPPORT. Laws/Ops.lean: what each shared operation can do, said once. -/

namespace Sys2Proof.Machine

/-- An entry class answers a next state only where the active instance walks at its level, and then only that instance's
walk state changes. -/
theorem onWalk_next {lvl : Level} {f : Walk → WalkState} {s t : State} (h : onWalk lvl f s = .next t) :
    ∃ k, s.walkers[s.active]? = some (.walking k) ∧ k.wp.level = lvl ∧ t = setWalker s s.active (f k) := by
  unfold onWalk at h
  split at h
  · split at h
    · exact ⟨_, ‹_›, ‹_›, by injection h with h; exact h.symm⟩
    · cases h
  · cases h
  · cases h
  · cases h

/-- An entry class completes where the active instance walks at its level. -/
theorem onWalk_walking {lvl : Level} {s : State} {k : Walk} (f : Walk → WalkState)
    (hk : s.walkers[s.active]? = some (.walking k)) (hl : k.wp.level = lvl) :
    onWalk lvl f s = .next (setWalker s s.active (f k)) := by
  simp [onWalk, hk, hl]

/-- R160: the effect of a fetched entry, by its class. -/
theorem entryEffect_cases (c : Config) (k : Walk) (e : Word) :
    (∃ x, entryEffect c k e = raise k x) ∨ (∃ pa, entryEffect c k e = finish k pa)
      ∨ (∃ next, nextLevel k.wp.level = some next ∧ entryEffect c k e = descend k next e) := by
  unfold entryEffect classify
  cases k.wp.level <;> cases present e <;> cases pageSize e
  case pd.true.true =>
    simp only [effectPdePs1]
    cases c.pdPsPolicy
    · exact .inl ⟨_, rfl⟩
    · exact .inr (.inl ⟨_, rfl⟩)
    · exact .inr (.inr ⟨_, rfl, rfl⟩)
  all_goals first
    | exact .inl ⟨_, rfl⟩
    | exact .inr (.inl ⟨_, rfl⟩)
    | exact .inr (.inr ⟨_, rfl, rfl⟩)

/-- R160: a walk step's outcome, by the memory reader's answer: a failure, an address, or a descent to the next level. -/
theorem answerEffect_cases (c : Config) (k : Walk) (r : ReadResult) :
    (∃ x, answerEffect c k r = raise k x) ∨ (∃ pa, answerEffect c k r = finish k pa)
      ∨ (∃ e next, r = .ok e ∧ nextLevel k.wp.level = some next ∧ answerEffect c k r = descend k next e) := by
  cases r with
  | fault i => exact .inl ⟨_, rfl⟩
  | ok e =>
    obtain h | h | ⟨next, hn, h⟩ := entryEffect_cases c k e
    · exact .inl h
    · exact .inr (.inl h)
    · exact .inr (.inr ⟨e, next, rfl, hn, h⟩)

/-- A called operation that only computes a value changes nothing but what has left the block. -/
@[simp] theorem answerCall_eq (r : Reply) (s : State) : answerCall r s = .next (reply s r) := rfl

/-- A run that takes no step. -/
@[simp] theorem run_zero (s : State) : Host.Core.run Sys2Proof.core 0 s = .next s := rfl

/-- A run goes on from the state its first step answers. -/
theorem run_succ_next {s t : State} (n : Nat) (h : step s = .next t) :
    Host.Core.run Sys2Proof.core (n + 1) s = Host.Core.run Sys2Proof.core n t := by
  have h' : Sys2Proof.core.step s = .next t := h
  simp only [Host.Core.run, h']

/-- R7: a free value is brought into the type, and a value of the type is its own. -/
@[simp] theorem infoInType_toInfoType (t : FaultInfoType) (i : FaultInfo) : infoInType t (toInfoType t i) = true := by
  cases t <;> simp [infoInType, toInfoType]

theorem toInfoType_of_inType {t : FaultInfoType} {i : FaultInfo} (h : infoInType t i = true) : toInfoType t i = i := by
  cases t with
  | finite n => simpa [infoInType, toInfoType] using h
  | naturals => rfl

/-- Every answer from the image carries information of the type. -/
theorem imageAnswer_inType (c : Config) (m : Reader) (a : Word) :
    readInType c.faultInfos (imageAnswer c m a).1 = true := by
  unfold imageAnswer
  split
  · split <;> simp [readInType]
  · cases Config.misalignedAnswer m.draws <;> simp [toReadType, readInType]

/-- R44: where every decided answer carries information of the type, so does what a read returns, and the answers left do. -/
theorem memRead_inType {c : Config} {m : Reader} (h : ∀ x ∈ m.answers, answerInType c.faultInfos x = true) (a : Word) :
    readInType c.faultInfos (memRead c m a).1 = true
      ∧ ∀ x ∈ (memRead c m a).2.answers, answerInType c.faultInfos x = true := by
  unfold memRead
  split <;> rename_i heq <;> simp_all [answerInType, imageAnswer_inType]

/-- R54: deciding on an answer adds it after the answers decided on before, and does nothing else. -/
theorem answerMove_next {x : Answer} {s t : State} (h : answerMove x s = .next t) :
    answerInType s.cfg.faultInfos x = true
      ∧ t = { s with reader := { s.reader with answers := s.reader.answers ++ [x] } } := by
  unfold answerMove at h
  split at h
  · exact ⟨‹_›, by injection h with h; exact h.symm⟩
  · cases h

/-- R140: what a walk step of a walk leaves of the state around it. -/
theorem stepWalk_snd (k : Walk) (s : State) : (stepWalk k s).2 = { s with
    reader := (memRead s.cfg s.reader (walkAddr k)).2
    events := s.events ++ [⟨k.id, k.wp.level, walkAddr k, (memRead s.cfg s.reader (walkAddr k)).1⟩] } := rfl

/-- R140: a walk step's outcome is the effect of the memory reader's one answer. -/
theorem stepWalk_fst (k : Walk) (s : State) :
    (stepWalk k s).1 = answerEffect s.cfg k (memRead s.cfg s.reader (walkAddr k)).1 := rfl

end Sys2Proof.Machine
end

