-- ==== Sys2Proof/Laws/PerInstr.lean ====
section
/-! SUPPORT. Laws/PerInstr.lean: statements about every instruction as syntax, one lemma per constructor.

`EncodingLength`: an instruction that has an encoding is eight bytes long (R83: "a fixed entry size of 8 bytes"), and it has
one exactly where it is an entry class (R90, R92). -/

namespace Sys2Proof.Laws.EncodingLength

/-- R83, R90: eight bytes, or no encoding at all. -/
def Statement (i : Instr) : Prop :=
  (encode i).isSome = !i.isOperation ∧ ∀ lvl bytes, encode i = some (lvl, bytes) → bytes.length = 8

/-- An entry class is encoded in eight bytes. -/
theorem of_entry {i : Instr} {c : EntryClass} {e : Word} (h : i.entry? = some (c, e)) : Statement i := by
  refine ⟨by simp [encode, Instr.isOperation, h], fun lvl bytes hb => ?_⟩
  simp only [encode, h, Option.some.injEq, Prod.mk.injEq] at hb
  simp [← hb.2, Machine.bytesOfWord]

/-- An operation has no encoding. -/
theorem of_operation {i : Instr} (h : i.entry? = none) : Statement i :=
  ⟨by simp [encode, Instr.isOperation, h], fun lvl bytes hb => by simp [encode, h] at hb⟩

theorem pml4eNp (e : Word) : Statement (.pml4eNp e) := of_entry rfl
theorem pml4eTbl (e : Word) : Statement (.pml4eTbl e) := of_entry rfl
theorem pdpteNp (e : Word) : Statement (.pdpteNp e) := of_entry rfl
theorem pdpteTbl (e : Word) : Statement (.pdpteTbl e) := of_entry rfl
theorem pdptePg1g (e : Word) : Statement (.pdptePg1g e) := of_entry rfl
theorem pdeNp (e : Word) : Statement (.pdeNp e) := of_entry rfl
theorem pdeTbl (e : Word) : Statement (.pdeTbl e) := of_entry rfl
theorem pdePs1 (e : Word) : Statement (.pdePs1 e) := of_entry rfl
theorem pteNp (e : Word) : Statement (.pteNp e) := of_entry rfl
theorem ptePg4k (e : Word) : Statement (.ptePg4k e) := of_entry rfl
theorem ptePs1 (e : Word) : Statement (.ptePs1 e) := of_entry rfl
theorem select (x : Word) (low : Nat) (high : Nat) : Statement (.select x low high) := of_operation rfl
theorem install (value : Word) (x : Word) (low : Nat) (high : Nat) : Statement (.install value x low high) := of_operation rfl
theorem readU64 (a : Word) : Statement (.readU64 a) := of_operation rfl
theorem translate (tb : Word) (va : Word) : Statement (.translate tb va) := of_operation rfl
theorem frameBase (src : Word) : Statement (.frameBase src) := of_operation rfl
theorem index (lvl : Level) (va : Word) : Statement (.index lvl va) := of_operation rfl
theorem entryAddrPml4 (base : Word) (va : Word) : Statement (.entryAddrPml4 base va) := of_operation rfl
theorem entryAddrPdpt (base : Word) (va : Word) : Statement (.entryAddrPdpt base va) := of_operation rfl
theorem entryAddrPd (base : Word) (va : Word) : Statement (.entryAddrPd base va) := of_operation rfl
theorem entryAddrPt (base : Word) (va : Word) : Statement (.entryAddrPt base va) := of_operation rfl
theorem classify (lvl : Level) (e : Word) : Statement (.classify lvl e) := of_operation rfl
theorem pageAddr4k (e : Word) (va : Word) : Statement (.pageAddr4k e va) := of_operation rfl
theorem pageAddr1g (e : Word) (va : Word) : Statement (.pageAddr1g e va) := of_operation rfl
theorem pageAddr2m (e : Word) (va : Word) : Statement (.pageAddr2m e va) := of_operation rfl
theorem walkStep (k : Walk) : Statement (.walkStep k) := of_operation rfl

end Sys2Proof.Laws.EncodingLength
end

