-- ==== Sys2Proof/Tests/Slice0.lean ====
section
/-! SUPPORT. Tests/Slice0.lean: small tests, each expected value from spec/95_test_vectors.md (S, V, T, P numbers) or from the
encodings of R84, and the witnesses that the hypotheses of the statements can be met. -/

namespace Sys2Proof.Tests
open Sys2Proof.Machine

/-! ## WellFormed: an ill-formed term for each check -/

theorem test_wf_pml4eNp : (Instr.pml4eNp 0x1003).wellFormed = false := by decide
theorem test_wf_pml4eTbl : (Instr.pml4eTbl 0x1002).wellFormed = false := by decide
theorem test_wf_pdpteNp : (Instr.pdpteNp 0x2003).wellFormed = false := by decide
theorem test_wf_pdpteTbl : (Instr.pdpteTbl 0x2087).wellFormed = false := by decide
theorem test_wf_pdptePg1g : (Instr.pdptePg1g 0x2003).wellFormed = false := by decide
theorem test_wf_pdeNp : (Instr.pdeNp 0x3003).wellFormed = false := by decide
theorem test_wf_pdeTbl : (Instr.pdeTbl 0x3083).wellFormed = false := by decide
theorem test_wf_pdePs1 : (Instr.pdePs1 0x3003).wellFormed = false := by decide
theorem test_wf_pteNp : (Instr.pteNp 0x4067).wellFormed = false := by decide
theorem test_wf_ptePg4k : (Instr.ptePg4k 0x40E7).wellFormed = false := by decide
theorem test_wf_ptePs1 : (Instr.ptePs1 0x4080).wellFormed = false := by decide
theorem test_wf_select : (Instr.select 0 5 4).wellFormed = false ∧ (Instr.select 0 0 64).wellFormed = false := by decide
theorem test_wf_install : (Instr.install 0 0 5 4).wellFormed = false ∧ (Instr.install 0 0 0 64).wellFormed = false := by decide
theorem test_wf_entryAddrPml4 : (Instr.entryAddrPml4 0x1001 0).wellFormed = false := by decide
theorem test_wf_entryAddrPdpt : (Instr.entryAddrPdpt 0x0010000000000000 0).wellFormed = false := by decide
theorem test_wf_entryAddrPd : (Instr.entryAddrPd 0x1800 0).wellFormed = false := by decide
theorem test_wf_entryAddrPt : (Instr.entryAddrPt 0x8000000000000000 0).wellFormed = false := by decide
theorem test_wf_pageAddr4k : (Instr.pageAddr4k 0x40E7 0).wellFormed = false := by decide
theorem test_wf_pageAddr1g : (Instr.pageAddr1g 0x2003 0).wellFormed = false := by decide
theorem test_wf_pageAddr2m : (Instr.pageAddr2m 0x3003 0).wellFormed = false := by decide
theorem test_wf_walkStep : (Instr.walkStep ⟨0, ⟨.pml4, 0x1001⟩, 0, 0⟩).wellFormed = false
    ∧ (Instr.walkStep ⟨0, ⟨.pt, 0x1000⟩, 4, 0⟩).wellFormed = false := by decide
theorem test_wf_accepts : (Instr.ptePg4k 0x4067).wellFormed = true ∧ (Instr.select 0 0 63).wellFormed = true
    ∧ (Instr.walkStep ⟨0, ⟨.pt, 0x1000⟩, 3, 0⟩).wellFormed = true := by decide

/-! ## Decoding: every class, from its bytes (V5); the first byte holds P at bit 0 and PS at bit 7 -/

theorem test_decode_pml4eNp : decode .pml4 [0xFE, 0xFF, 0xFF, 0xFF, 0xFF, 0xFF, 0xFF, 0xFF] = .ok (.pml4eNp 0xFFFFFFFFFFFFFFFE, []) := by rfl
theorem test_decode_pml4eTbl : decode .pml4 [0x83, 0x10, 0, 0, 0, 0, 0, 0] = .ok (.pml4eTbl 0x1083, []) := by rfl
theorem test_decode_pdpteNp : decode .pdpt [0x86, 0x20, 0, 0, 0, 0, 0, 0] = .ok (.pdpteNp 0x2086, []) := by rfl
theorem test_decode_pdpteTbl : decode .pdpt [0x03, 0x20, 0, 0, 0, 0, 0, 0] = .ok (.pdpteTbl 0x2003, []) := by rfl
theorem test_decode_pdptePg1g : decode .pdpt [0x87, 0x20, 0, 0, 0, 0, 0, 0, 0xAB] = .ok (.pdptePg1g 0x2087, [0xAB]) := by rfl
theorem test_decode_pdeNp : decode .pd [0x82, 0x30, 0, 0, 0, 0, 0, 0] = .ok (.pdeNp 0x3082, []) := by rfl
theorem test_decode_pdeTbl : decode .pd [0x63, 0x0F, 0, 0, 4, 0, 0, 0] = .ok (.pdeTbl 0x0000000400000F63, []) := by rfl
theorem test_decode_pdePs1 : decode .pd [0x83, 0x30, 0, 0, 0, 0, 0, 0] = .ok (.pdePs1 0x3083, []) := by rfl
theorem test_decode_pteNp : decode .pt [0x80, 0x40, 0, 0, 0, 0, 0, 0] = .ok (.pteNp 0x4080, []) := by rfl
theorem test_decode_ptePg4k : decode .pt [0x63, 0xB1, 0xAD, 0xDE, 0, 0, 0, 0x80] = .ok (.ptePg4k 0x80000000DEADB163, []) := by rfl
theorem test_decode_ptePs1 : decode .pt [0xE7, 0x40, 0, 0, 0, 0, 0, 0] = .ok (.ptePs1 0x40E7, []) := by rfl
theorem test_decode_truncated : decode .pt [0xE7, 0x40, 0, 0, 0, 0, 0] = .error .truncated := by rfl
theorem test_encode_ptePg4k :
    encode (.ptePg4k 0x80000000DEADB163) = some (.pt, [0x63, 0xB1, 0xAD, 0xDE, 0, 0, 0, 0x80]) := by decide
theorem test_encode_operation : encode (.frameBase 0x1003) = none := by decide
theorem test_decodeTableWord : decodeTableWord 8 0x81 = some (.pml4eTbl 0x81) := by decide

/-! ## Small states -/

/-- The state an outcome goes on to. -/
def nextOf : Result → Option State
  | .next s => some s
  | .fault _ => none
  | .refused _ => none

/-- The source's virtual address (S5). -/
abbrev va0 : Word := 0x00007FFF00001000

/-- Parameters under which an access fault carries any natural number. -/
abbrev natInfos : Config := { faultInfos := .naturals }

/-- A walk of the source's address at a level, over a table base. -/
abbrev walkAt (lvl : Level) (base : Word) : Walk := ⟨va0, ⟨lvl, base⟩, ordinal lvl, 0⟩

/-- Instance 0 walks at a level, its walk step comes next, and the memory reader's next answers are decided. -/
abbrev walkingAt (lvl : Level) (base : Word) (answers : List ReadResult) : State :=
  { State.reset with
    walkers := [.walking (walkAt lvl base), .idle]
    agenda  := [.walk 0]
    reader  := ⟨[], answers.map .given, 0⟩
    nWalks  := 1 }

/-- Nothing goes on, and the memory reader's next answers are decided. -/
abbrev answering (answers : List Answer) : State := { State.reset with reader := ⟨[], answers, 0⟩ }

/-- The instances after a step. -/
def walkersAfterStep (s : State) : Option (List WalkState) := (nextOf (step s)).map State.walkers

/-- What a called operation answers. -/
def replyOf (i : Instr) (s : State) : Option (List Reply) := (nextOf (exec i s)).map State.replies

/-! ## Entry classes, each by a step of the machine from the word's decided answer -/

theorem test_pml4eNp : walkersAfterStep (walkingAt .pml4 0x1000 [.ok 0x1002])
    = some [.done (.err (.notPresent .pml4)) 1, .idle] := by decide
theorem test_pml4eTbl : walkersAfterStep (walkingAt .pml4 0x1000 [.ok 0x1083])
    = some [.walking ⟨va0, ⟨.pdpt, 0x1000⟩, 1, 0⟩, .idle] := by decide
theorem test_pdpteNp : walkersAfterStep (walkingAt .pdpt 0x1000 [.ok 0x2086])
    = some [.done (.err (.notPresent .pdpt)) 2, .idle] := by decide
theorem test_pdpteTbl : walkersAfterStep (walkingAt .pdpt 0x1000 [.ok 0x8000000000002F7F])
    = some [.walking ⟨va0, ⟨.pd, 0x2000⟩, 2, 0⟩, .idle] := by decide
theorem test_pdptePg1g : walkersAfterStep (walkingAt .pdpt 0x1000 [.ok 0x2087])
    = some [.done (.ok 0x80001000) 2, .idle] := by decide
theorem test_pdeNp : walkersAfterStep (walkingAt .pd 0x2000 [.ok 0x3082])
    = some [.done (.err (.notPresent .pd)) 3, .idle] := by decide
theorem test_pdeTbl : walkersAfterStep (walkingAt .pd 0x2000 [.ok 0x3003])
    = some [.walking ⟨va0, ⟨.pt, 0x3000⟩, 3, 0⟩, .idle] := by decide
theorem test_pdePs1_fault : walkersAfterStep (walkingAt .pd 0x2000 [.ok 0x3083])
    = some [.done (.err (.unexpectedHugePage .pd)) 3, .idle] := by decide
theorem test_pdePs1_map2m : walkersAfterStep { walkingAt .pd 0x2000 [.ok 0x3083] with cfg := { pdPsPolicy := .map2m } }
    = some [.done (.ok 0x601000) 3, .idle] := by decide
theorem test_pteNp : walkersAfterStep (walkingAt .pt 0x3000 [.ok 0x4080])
    = some [.done (.err (.notPresent .pt)) 4, .idle] := by decide
theorem test_ptePg4k : walkersAfterStep (walkingAt .pt 0x3000 [.ok 0x4067])
    = some [.done (.ok 0x4000) 4, .idle] := by decide
theorem test_ptePs1 : walkersAfterStep (walkingAt .pt 0x3000 [.ok 0x40E7])
    = some [.done (.err (.unexpectedHugePage .pt)) 4, .idle] := by decide
theorem test_accessFault : walkersAfterStep { walkingAt .pd 0x2000 [.fault 7] with cfg := natInfos }
    = some [.done (.err (.accessFault 7)) 3, .idle] := by decide
theorem test_read_address : (nextOf (step (walkingAt .pml4 0x1000 [.ok 0x1003]))).map State.events
    = some [⟨0, .pml4, 0x17F8, .ok 0x1003⟩] := by decide

/-! ## Operations (V1 to V6, T-vectors) -/

theorem test_select : replyOf (.select 0xFEDCBA9876543210 12 51) .reset = some [.word 0xCBA9876543] := by decide
theorem test_select_full : replyOf (.select 0xFEDCBA9876543210 0 63) .reset = some [.word 0xFEDCBA9876543210] := by decide
theorem test_install : replyOf (.install 0x2AB 0x123456789ABCDEF0 3 11) .reset = some [.word 0x123456789ABCD558] := by decide
theorem test_install_top : replyOf (.install 2 0 63 63) .reset = some [.word 0] := by decide
theorem test_frameBase : replyOf (.frameBase 0x8000000000002FFF) .reset = some [.word 0x2000] := by decide
theorem test_index : replyOf (.index .pdpt va0) .reset = some [.word 0x1FC] := by decide
theorem test_entryAddrPml4 : replyOf (.entryAddrPml4 0x000ABCDEF0123000 0x0000123456789ABC) .reset
    = some [.word 0x000ABCDEF0123120] := by decide
theorem test_entryAddrPdpt : replyOf (.entryAddrPdpt 0x000ABCDEF0123000 0x0000123456789ABC) .reset
    = some [.word 0x000ABCDEF0123688] := by decide
theorem test_entryAddrPd : replyOf (.entryAddrPd 0x000ABCDEF0123000 0x0000123456789ABC) .reset
    = some [.word 0x000ABCDEF0123598] := by decide
theorem test_entryAddrPt : replyOf (.entryAddrPt 0x000ABCDEF0123000 0x0000123456789ABC) .reset
    = some [.word 0x000ABCDEF0123C48] := by decide
theorem test_classify : replyOf (.classify .pt 0x4080) .reset = some [.cls .pteNp] := by decide
theorem test_pageAddr4k : replyOf (.pageAddr4k 0x8000000000004067 0x00007FFF00001FFF) .reset = some [.word 0x4FFF] := by decide
theorem test_pageAddr1g : replyOf (.pageAddr1g 0x0000000040000083 0x12345678) .reset
    = some [.word 0x0001000012345678] := by decide
theorem test_pageAddr1g_lost : replyOf (.pageAddr1g 0x000FFFFFFFFFF081 0) .reset = some [.word 0xFFFFFFFFC0000000] := by decide
theorem test_pageAddr2m : replyOf (.pageAddr2m 0x0000000000200083 0x3ABCDE) .reset = some [.word 0x401ABCDE] := by decide
/-- R48: the byte at the address is bits 7:0. -/
theorem test_readU64 : replyOf (.readU64 8) { State.reset with
      reader := ⟨[(8, 0x67), (9, 0x40), (10, 0), (11, 0), (12, 0), (13, 0), (14, 0), (15, 0x80)], [], 0⟩ }
    = some [.read (.ok 0x8000000000004067)] := by decide
/-- T1 of V7, the answers in the order of the reads. -/
theorem test_translate : replyOf (.translate 0x1000 va0) (answering [.given (.ok 0x1003), .given (.ok 0x2003), .given (.ok 0x3003), .given (.ok 0x4067)])
    = some [.result (.ok 0x4000)] := by decide
/-- T7 of V7: two reads. -/
theorem test_translate_reads : (nextOf (exec (.translate 0x1000 va0) (answering [.given (.ok 0x1003), .given (.ok 0x2087)]))).map
      (fun t => t.events.map ReadEvent.addr) = some [0x17F8, 0x1FE0] := by decide
theorem test_walkStep : replyOf (.walkStep (walkAt .pml4 0x1000)) (answering [.given (.ok 0x1003)])
    = some [.walkState (.walking ⟨va0, ⟨.pdpt, 0x1000⟩, 1, 0⟩)] := by decide

/-! ## Moves and the host's probe -/

theorem test_request : walkersAfterStep { State.reset with agenda := [.request 1 0xFFF0000000001ABC va0] }
    = some [.idle, .walking ⟨va0, ⟨.pml4, 0x1000⟩, 0, 0⟩] := by decide
theorem test_respond : (nextOf (step { State.reset with walkers := [.done (.ok 0) 4], agenda := [.respond 0] })).map
    (fun t => (t.walkers, t.replies)) = some ([.idle], [.response 0 (.ok 0)]) := by decide
theorem test_withFetchWord : walkersAfterStep (State.reset.withFetchWord 8 0)
    = some [.done (.err (.notPresent .pml4)) 1, .idle] := by decide

/-! ## Witnesses: concrete operands and states that meet the hypotheses of the statements, clause by clause -/

/-- The legal bounds of the codec at their edges, and bounds on each side outside. -/
theorem witness_codec_bounds :
    (0 ≤ 63 ∧ 63 ≤ 63) ∧ (63 ≤ 63 ∧ 63 ≤ 63) ∧ ¬ (5 ≤ 4 ∧ 4 ≤ 63) ∧ ¬ (0 ≤ 64 ∧ 64 ≤ 63) := by decide

/-- CodecLaws, laws 4, 7, 8 and 9. -/
theorem witness_codec_laws :
    offset4k.high < frameField.low
    ∧ (⟨0, 63, by decide⟩ : BitRange).low = 0 ∧ (⟨0, 63, by decide⟩ : BitRange).high = 63
    ∧ (∀ i, slotField.low ≤ i → i ≤ slotField.high → (0x1000 : Word).getLsbD i = false)
    ∧ (⟨3, 63, by decide⟩ : BitRange).low = slotField.low
    ∧ (⟨0, 8, by decide⟩ : BitRange).high = slotField.high - slotField.low :=
  ⟨by decide, rfl, rfl, fun i h h' => by
    simp only [slotField] at h h'
    interval_cases i <;> decide, rfl, rfl⟩

/-- EntryAddressesPlaceTheIndex and EntryAddressStaysInItsTable: the largest frame base, and an equal index of another address. -/
theorem witness_frame_base : (0x000FFFFFFFFFF000 : Word) &&& 0x000FFFFFFFFFF000 = 0x000FFFFFFFFFF000
    ∧ frameBase 0x000FFFFFFFFFF000 = 0x000FFFFFFFFFF000 ∧ index .pt 0x1000 = index .pt va0 := by decide

/-- PageAddress1g: the largest frame number that loses nothing. -/
theorem witness_lossless_frame : (0x00003FFFFFFFF081 : Word).toNat / 2 ^ 12 % 2 ^ 40 < 2 ^ 34 := by decide

/-- The class statements: an active walk at each level. -/
theorem witness_active_walk (lvl : Level) : (walkingAt lvl 0x1000 []).walkers[(walkingAt lvl 0x1000 []).active]? =
    some (.walking (walkAt lvl 0x1000)) ∧ (walkAt lvl 0x1000).wp.level = lvl := ⟨rfl, rfl⟩

/-- The class statements: entries with each value of P and PS. -/
theorem witness_entry_bits : (0x4080 : Word).getLsbD 0 = false
    ∧ ((0x4067 : Word).getLsbD 0 = true ∧ (0x4067 : Word).getLsbD 7 = false)
    ∧ ((0x40E7 : Word).getLsbD 0 = true ∧ (0x40E7 : Word).getLsbD 7 = true) := by decide

/-- HugePdeFollowsThePolicy: each policy. -/
theorem witness_policies (p : PdPsPolicy) :
    ({ walkingAt .pd 0x1000 [] with cfg := { pdPsPolicy := p } } : State).cfg.pdPsPolicy = p := rfl

/-- OffsetIsCopiedUnchanged: a success at each of the three levels. -/
theorem witness_successes :
    answerEffect {} (walkAt .pt 0x3000) (.ok 0x4067) = .done (.ok 0x4000) 4
    ∧ answerEffect {} (walkAt .pdpt 0x1000) (.ok 0x2087) = .done (.ok 0x80001000) 2
    ∧ answerEffect { pdPsPolicy := .map2m } (walkAt .pd 0x2000) (.ok 0x3083) = .done (.ok 0x601000) 3 := by decide

/-- IgnoredBitsHaveNoEffect: two entries and two addresses that differ in every ignored bit, with a result and with a
descent. -/
theorem witness_ignored_bits :
    ((0xFFF0000000004F7F : Word).getLsbD 0 = (0x4001 : Word).getLsbD 0
      ∧ (0xFFF0000000004F7F : Word).getLsbD 7 = (0x4001 : Word).getLsbD 7
      ∧ (0xFFF0000000004F7F : Word).extractLsb' 12 40 = (0x4001 : Word).extractLsb' 12 40)
    ∧ (0xFFFF7FFF00001000 : Word).extractLsb' 0 48 = va0.extractLsb' 0 48
    ∧ entryEffect {} (walkAt .pt 0x3000) 0x4001 = .done (.ok 0x4000) 4
    ∧ entryEffect {} (walkAt .pd 0x3000) 0x4001 = .walking ⟨va0, ⟨.pt, 0x4000⟩, 3, 0⟩ := by decide

/-- DecodeOfEncode and EncodeOfDecode: a well-formed entry class, a well-formed operation, eight bytes, and seven. -/
theorem witness_encoding :
    ((Instr.pdePs1 0x3083).wellFormed = true ∧ (Instr.pdePs1 0x3083).isOperation = false)
    ∧ ((Instr.select 0 0 63).wellFormed = true ∧ (Instr.select 0 0 63).isOperation = true)
    ∧ (List.replicate 8 (0 : Byte)).length = 8 ∧ (List.replicate 7 (0 : Byte)).length < 8 := by decide

/-- An image with a PML4E at address 0 and a walk that reads it. -/
abbrev imaged (answers : List Answer) (agenda : List Move) : State :=
  { State.reset with
    walkers := [.walking ⟨0, ⟨.pml4, 0⟩, 0, 0⟩, .walking ⟨0, ⟨.pt, 0⟩, 3, 1⟩]
    reader  := ⟨[(0, 0x03), (1, 0x10), (2, 0), (3, 0), (4, 0), (5, 0), (6, 0), (7, 0)], answers, 0⟩
    agenda  := agenda
    nWalks  := 2 }

/-- StepRunsTheDecodedEntry: both clauses, the first with no decided answer and with one that says image. -/
theorem witness_step_runs_entry :
    (imaged [] [.walk 0]).agenda = .walk 0 :: []
    ∧ (imaged [] [.walk 0]).walkers[0]? = some (.walking ⟨0, ⟨.pml4, 0⟩, 0, 0⟩)
    ∧ frameBase (0 : Word) = 0
    ∧ readBytes (imaged [] [.walk 0]).reader.mem (walkAddr ⟨0, ⟨.pml4, 0⟩, 0, 0⟩) 8 = some [0x03, 0x10, 0, 0, 0, 0, 0, 0]
    ∧ (imaged [.image] [.walk 0]).reader.answers = .image :: []
    ∧ (imaged [.given (.ok 0x1003)] [.walk 0]).reader.answers = .given (.ok 0x1003) :: [] := by decide

theorem witness_step_runs_entry_decodes :
    decode .pml4 [0x03, 0x10, 0, 0, 0, 0, 0, 0] = .ok (.pml4eTbl 0x1003, []) := by rfl

/-- StepRunsTheCalledOperation: an operation and an entry class. -/
theorem witness_called : (imaged [] [.call (.frameBase 0)]).agenda = .call (.frameBase 0) :: []
    ∧ (Instr.frameBase 0).isOperation = true
    ∧ (imaged [] [.call (.pteNp 0)]).agenda = .call (.pteNp 0) :: [] ∧ (Instr.pteNp 0).isOperation = false := by decide

/-- AccessFaultIsPropagatedVerbatim: a decided fault, and a fault of the image. -/
theorem witness_access_fault :
    (memRead natInfos (walkingAt .pd 0x2000 [.fault 7]).reader (walkAddr (walkAt .pd 0x2000))).1 = .fault 7
    ∧ (memRead natInfos (walkingAt .pd 0x2000 []).reader (walkAddr (walkAt .pd 0x2000))).1 = .fault (Config.faultInfo 0)
    ∧ TypedState { walkingAt .pd 0x2000 [.fault 7] with cfg := natInfos } := ⟨rfl, rfl, by decide⟩

/-- WalkStepFollowsItsPseudocode: an illegal base, an illegal count, a legal walk at the largest count, its levels' next. -/
theorem witness_walk_states :
    ¬ (frameBase (0x1001 : Word) = 0x1001 ∧ 0 ≤ 3) ∧ ¬ (frameBase (0x1000 : Word) = 0x1000 ∧ 4 ≤ 3)
    ∧ (frameBase (walkAt .pt 0x1000).wp.base = (walkAt .pt 0x1000).wp.base ∧ (walkAt .pt 0x1000).nreads ≤ 3)
    ∧ nextLevel .pml4 = some .pdpt ∧ nextLevel .pd = some .pt := by decide

/-- WalkStepFollowsItsPseudocode and AccessFaultIsPropagatedVerbatim: each kind of answer. -/
theorem witness_answers (r : ReadResult) : (memRead natInfos (walkingAt .pt 0x1000 [r]).reader 0x1008).1 = r := rfl

/-- NoStepFromIdleOrDone, RequestStartsTheWalk, ResponseDeliversAndFrees, DoneIsTerminal: an Idle and a Done instance. -/
abbrev idleAndDone (agenda : List Move) : State :=
  { State.reset with walkers := [.idle, .done (.ok 0) 4], agenda := agenda }

theorem witness_idle_and_done :
    (idleAndDone [.walk 0]).walkers[0]? = some .idle ∧ (idleAndDone [.walk 1]).walkers[1]? = some (.done (.ok 0) 4)
    ∧ (idleAndDone [.walk 1]).agenda = .walk 1 :: []
    ∧ (idleAndDone [.request 0 0x1000 va0]).agenda = .request 0 0x1000 va0 :: []
    ∧ (idleAndDone [.respond 1]).agenda = .respond 1 :: []
    ∧ (Instr.ptePs1 0).isOperation = false ∧ (idleAndDone []).active = 0 := by decide

theorem witness_no_move : State.reset.agenda = [] := rfl
theorem witness_reset_instance : 0 < 1 ∧ 1 ≤ 1 := by decide

/-- ReadU64AnswersOnce: a decided answer, eight listed bytes, a byte not listed, a misaligned address. -/
theorem witness_reads :
    (imaged [.given (.fault 7)] []).reader.answers = .given (.fault 7) :: []
    ∧ ((0 : Word).extractLsb' 0 3 = 0
      ∧ ∀ i < 8, readByte (imaged [] []).reader.mem ((0 : Word).toNat + i) = some ((0x1003 : Word).extractLsb' (8 * i) 8))
    ∧ ((8 : Word).extractLsb' 0 3 = 0 ∧ readByte (imaged [] []).reader.mem ((8 : Word).toNat + 7) = none)
    ∧ (0xFFFFFFFFFFFFFFF8 : Word).extractLsb' 0 3 = 0 ∧ (1 : Word).extractLsb' 0 3 ≠ 0 := by decide

/-- StoreIsSeenByTheNextRead and ByteMovesChangeOneByte: the moves, at the top of the address space. -/
theorem witness_stores :
    (imaged [] [.store 0xFFFFFFFFFFFFFFF8 1, .call (.readU64 0xFFFFFFFFFFFFFFF8)]).agenda
      = .store 0xFFFFFFFFFFFFFFF8 1 :: .call (.readU64 0xFFFFFFFFFFFFFFF8) :: []
    ∧ (imaged [] []).reader.answers = [] ∧ (∀ i < 8, 0 ≠ (0xFFFFFFFFFFFFFFF8 : Word).toNat + i)
    ∧ (imaged [] [.poke 0xFFFFFFFFFFFFFFFF 1]).agenda = .poke 0xFFFFFFFFFFFFFFFF 1 :: []
    ∧ (imaged [] [.unmap 0]).agenda = .unmap 0 :: [] := by decide

theorem witness_unmap_wf : Memory.wf (imaged [] [.unmap 0]).reader.mem := by decide

/-- BlockNeverStores, ParametersNeverChange, StepKeepsSafeState and the statements on a step that answers a next state: a
safe state whose step does. -/
theorem witness_safe_step : SafeState (imaged [] [.walk 0]) ∧ (nextOf (step (imaged [] [.walk 0]))).isSome = true
    ∧ (nextOf (exec (.frameBase 0) (imaged [] []))).isSome = true := by decide

/-- OtherInstancesAreUndisturbed and WalkPointerAdvancesOneLevel: a step of instance 0 that descends, seen from both. -/
theorem witness_descent :
    (nextOf (step (imaged [] [.walk 0]))).map (fun t => (t.walkers[0]?, t.walkers[1]?))
      = some (some (.walking ⟨0, ⟨.pdpt, 0x1000⟩, 1, 0⟩), some (.walking ⟨0, ⟨.pt, 0⟩, 3, 1⟩))
    ∧ (imaged [] [.walk 0]).agenda.head? = some (.walk 0) := by decide

/-- WalkStepsOfTwoInstancesCommute: two walks over one readable entry. -/
theorem witness_two_walks :
    (imaged [] []).walkers[0]? = some (.walking ⟨0, ⟨.pml4, 0⟩, 0, 0⟩)
    ∧ (imaged [] []).walkers[1]? = some (.walking ⟨0, ⟨.pt, 0⟩, 3, 1⟩)
    ∧ readWord (imaged [] []).reader.mem (walkAddr ⟨0, ⟨.pml4, 0⟩, 0, 0⟩) = some 0x1003
    ∧ readWord (imaged [] []).reader.mem (walkAddr ⟨0, ⟨.pt, 0⟩, 3, 1⟩) = some 0x1003 := by decide

/-- ReadsFollowTheEntries and SourceProperties: a translation with its events and its reply; two reads in a row. -/
theorem witness_translation :
    (nextOf (exec (.translate 0x1000 va0) (answering [.given (.ok 0x1003), .given (.ok 0x2087)]))).map
      (fun t => (t.events, t.replies))
    = some ([⟨0, .pml4, 0x17F8, .ok 0x1003⟩, ⟨0, .pdpt, 0x1FE0, .ok 0x2087⟩], [.result (.ok 0x80001000)]) := by decide

/-- TranslateIgnoresUnusedBits: operands that differ in every ignored bit. -/
theorem witness_unused_bits : (0xFFF0000000001FFF : Word).extractLsb' 12 40 = (0x1000 : Word).extractLsb' 12 40
    ∧ (0xFFFF7FFF00001000 : Word).extractLsb' 0 48 = va0.extractLsb' 0 48 := by decide

/-- SteppedWalkIsTranslate: an instance at the start of a walk. -/
theorem witness_start : (imaged [] []).walkers[0]? = some (.walking (startWalk 0 0 0)) := by decide

/-- SourceProperties, third clause: a translation whose second entry has P clear. -/
theorem witness_not_present :
    (nextOf (exec (.translate 0x1000 va0) (answering [.given (.ok 0x1003), .given (.ok 0x2002)]))).map
      (fun t => (t.events, t.replies))
    = some ([⟨0, .pml4, 0x17F8, .ok 0x1003⟩, ⟨0, .pdpt, 0x1FE0, .ok 0x2002⟩], [.result (.err (.notPresent .pdpt))]) := by decide

/-- NoAddressIsASentinel: the offsets of its two clauses. -/
theorem witness_sentinel_offsets : va0.extractLsb' 0 12 = 0
    ∧ (0x3FFFFFFF : Word).extractLsb' 0 30 = BitVec.allOnes 30
    ∧ ((0x2003 : Word).getLsbD 0 = true ∧ (0x2003 : Word).getLsbD 7 = false) := by decide

/-- ResponseSignalsDetermineTheResult: a result of each tag. -/
theorem witness_signals : tagCode (.ok 0) = 0 ∧ tagCode (.err (.notPresent .pt)) = 1
    ∧ tagCode (.err (.unexpectedHugePage .pd)) = 2 ∧ tagCode (.err (.accessFault 7)) = 3 := by decide

/-- A PML4E, a PDPTE, a PDE and a PTE in the reader's image at the addresses that the source's address and the table base
0x1000 give. -/
abbrev chainImage : Memory :=
  [(0x17F8, 0x03), (0x17F9, 0x10), (0x17FA, 0), (0x17FB, 0), (0x17FC, 0), (0x17FD, 0), (0x17FE, 0), (0x17FF, 0)]
  ++ [(0x1FE0, 0x03), (0x1FE1, 0x20), (0x1FE2, 0), (0x1FE3, 0), (0x1FE4, 0), (0x1FE5, 0), (0x1FE6, 0), (0x1FE7, 0)]
  ++ [(0x2000, 0x03), (0x2001, 0x30), (0x2002, 0), (0x2003, 0), (0x2004, 0), (0x2005, 0), (0x2006, 0), (0x2007, 0)]
  ++ [(0x3008, 0x67), (0x3009, 0x40), (0x300A, 0), (0x300B, 0), (0x300C, 0), (0x300D, 0), (0x300E, 0), (0x300F, 0)]

/-- SourceProperties, first clause: a chain read from the image whole (T1 of V7), and one whose second answer is decided
on. -/
theorem witness_chain_from_image (answers : List Answer) (h : answers = [] ∨ answers = [.image, .given (.ok 0x2003)]) :
    (nextOf (exec (.translate 0x1000 va0) { State.reset with reader := ⟨chainImage, answers, 0⟩ })).map
      (fun t => (t.events, t.replies))
    = some ([⟨0, .pml4, 0x17F8, .ok 0x1003⟩, ⟨0, .pdpt, 0x1FE0, .ok 0x2003⟩, ⟨0, .pd, 0x2000, .ok 0x3003⟩,
        ⟨0, .pt, 0x3008, .ok 0x4067⟩], [.result (.ok 0x4000)]) := by
  obtain rfl | rfl := h <;> decide

/-- ValidChainTranslates: the reads of a chain in the image, and of a huge PDPT entry decided on. -/
theorem witness_chain_reads : let m : Reader := ⟨chainImage, [], 0⟩
    memRead {} m (entryAddr .pml4 (frameBase 0x1000) va0) = (.ok 0x1003, m)
    ∧ memRead {} m (entryAddr .pdpt (frameBase 0x1003) va0) = (.ok 0x2003, m)
    ∧ memRead {} m (entryAddr .pd (frameBase 0x2003) va0) = (.ok 0x3003, m)
    ∧ memRead {} m (entryAddr .pt (frameBase 0x3003) va0) = (.ok 0x4067, m)
    ∧ (memRead {} { m with answers := [.given (.ok 0x2087)] } (entryAddr .pdpt (frameBase 0x1003) va0)).1 = .ok 0x2087 := by
  decide

/-- AnswerMoveDecidesALaterAnswer: an answer of the type and one that is not, under the unit type. -/
theorem witness_answer_move : (imaged [] [.answer (.given (.fault 0))]).agenda = .answer (.given (.fault 0)) :: []
    ∧ answerInType (imaged [] []).cfg.faultInfos (.given (.fault 0)) = true
    ∧ answerInType (imaged [] []).cfg.faultInfos (.given (.fault 1)) = false := by decide

/-- StepKeepsFaultInfosInType: a state that holds information of its type in every place, and whose step answers a next one. -/
abbrev faulted : State :=
  { imaged [.given (.fault 0)] [.respond 1] with
    walkers := [.walking ⟨0, ⟨.pml4, 0⟩, 0, 1⟩, .done (.err (.accessFault 0)) 1]
    events  := [⟨0, .pml4, 0, .fault 0⟩]
    replies := [.result (.err (.accessFault 0))] }

theorem witness_typed_step : TypedState faulted ∧ (nextOf (step faulted)).isSome = true
    ∧ ¬ TypedState { faulted with events := [⟨0, .pml4, 0, .fault 1⟩] } := by decide

/-- NothingPersistsBetweenWalks: two different states with one reader and the same parameters. -/
theorem witness_history : (idleAndDone [.respond 1]).reader = State.reset.reader
    ∧ (idleAndDone [.respond 1]).cfg = State.reset.cfg
    ∧ idleAndDone [.respond 1] ≠ State.reset := by decide

end Sys2Proof.Tests
end

section
/-! What each move and each fetch can do, said once: the inversion of an answered next state. -/

namespace Sys2Proof.Machine

variable {s t : State}

/-- R26: a request is taken only by an Idle walker, which then holds the start of a walk. -/
theorem takeRequest_next {w : Nat} {tb va : Word} (h : takeRequest w tb va s = .next t) :
    s.walkers[w]? = some .idle
      ∧ t = setWalker { s with nWalks := s.nWalks + 1 } w (.walking (startWalk s.nWalks tb va)) := by
  unfold takeRequest at h
  split at h
  case h_1 hw => exact ⟨hw, by injection h with h; exact h.symm⟩
  all_goals cases h

/-- R27: a response takes the result of a finished walk, which leaves the block, and the walker is Idle. -/
theorem deliver_next {w : Nat} (h : deliver w s = .next t) :
    ∃ r n, s.walkers[w]? = some (.done r n) ∧ t = reply (setWalker s w .idle) (.response w r) := by
  unfold deliver at h
  split at h
  case h_1 r n hw => exact ⟨r, n, hw, by injection h with h; exact h.symm⟩
  all_goals cases h

/-- R140: a fetch gives an entry to run where the walker is walking and its one read is answered with that entry. -/
theorem fetch_entry {w : Nat} {i : Instr} (h : fetch w s = .entry i t) :
    ∃ k e, s.walkers[w]? = some (.walking k) ∧ readEntry k { s with active := w } = (.ok e, t)
      ∧ i = decodeEntry k.wp.level e := by
  unfold fetch at h
  split at h
  case h_1 k hw =>
    split at h
    case h_1 e _ hread => cases h; exact ⟨k, e, hw, hread, rfl⟩
    case h_2 => cases h
  all_goals cases h

/-- R183: a fetch ends the walk where the walker is walking and its one read is answered with a fault, whose information
is in the walk's result. -/
theorem fetch_ended {w : Nat} (h : fetch w s = .ended t) :
    ∃ k info s', s.walkers[w]? = some (.walking k) ∧ readEntry k { s with active := w } = (.fault info, s')
      ∧ t = setWalker s' w (raise k (.accessFault info)) := by
  unfold fetch at h
  split at h
  case h_1 k hw =>
    split at h
    case h_1 => cases h
    case h_2 info s' hread => cases h; exact ⟨k, info, s', hw, hread, rfl⟩
  all_goals cases h

/-- R104: a called `select` answers only within the contract, with its value. -/
theorem execSelect_next {x : Word} {low high : Nat} (h : execSelect x low high s = .next t) :
    ∃ r, bitRange? low high = some r ∧ t = reply s (.word (select x r)) := by
  unfold execSelect at h
  split at h
  case h_1 r hr => cases h; exact ⟨r, hr, rfl⟩
  case h_2 => cases h

/-- R104: a called `install` answers only within the contract, with its value. -/
theorem execInstall_next {value x : Word} {low high : Nat} (h : execInstall value x low high s = .next t) :
    ∃ r, bitRange? low high = some r ∧ t = reply s (.word (install value x r)) := by
  unfold execInstall at h
  split at h
  case h_1 r hr => cases h; exact ⟨r, hr, rfl⟩
  case h_2 => cases h

/-- R140: a called `walk_step` answers only on a state of a walk in progress, with the walk state its one step gives. -/
theorem execWalkStep_next {k : Walk} (h : execWalkStep k s = .next t) :
    legalWalk k = true ∧ t = reply (stepWalk k s).2 (.walkState (stepWalk k s).1) := by
  unfold execWalkStep at h
  split at h
  case isTrue hk => cases h; exact ⟨hk, rfl⟩
  case isFalse => cases h

/-- R150, R151: a called `translate` answers with the result of the finished walk. -/
theorem execTranslate_next {tb va : Word} (h : execTranslate tb va s = .next t) :
    ∃ r n s', iterateWalk 4 (startWalk s.nWalks tb va) { s with nWalks := s.nWalks + 1 } = (.done r n, s')
      ∧ t = reply s' (.result r) := by
  unfold execTranslate at h
  split at h
  case h_1 r n s' hit => cases h; exact ⟨r, n, s', hit, rfl⟩
  all_goals cases h

end Sys2Proof.Machine
end

section
/-! R7, R183, D8: fault information stays in the type of the parameter. One rule per operation on the state, then one per
read, walk step, instruction and move. -/

namespace Sys2Proof.Machine

variable {s t : State}

/-! ## The operations on the state -/

theorem typedState_setWalker {w : Nat} {ws : WalkState} (hs : TypedState s)
    (hws : walkStateInType s.cfg.faultInfos ws = true) : TypedState (setWalker s w ws) := by
  obtain ⟨hwalkers, hrest⟩ := hs
  refine ⟨fun x hx => ?_, hrest⟩
  obtain hx | rfl := List.mem_or_eq_of_mem_set hx
  · exact hwalkers x hx
  · exact hws

theorem typedState_reply {r : Reply} (hs : TypedState s) (hr : replyInType s.cfg.faultInfos r = true) :
    TypedState (reply s r) := by
  obtain ⟨hwalkers, hanswers, hevents, hreplies⟩ := hs
  refine ⟨hwalkers, hanswers, hevents, fun x hx => ?_⟩
  obtain hx | hx := List.mem_append.mp hx
  · exact hreplies x hx
  · rwa [List.mem_singleton.mp hx]

theorem typedState_setMem {m : Memory} (hs : TypedState s) : TypedState (setMem s m) := hs

/-- A walk state that a walker of a typed state holds is typed. -/
theorem TypedState.walker {w : Nat} {ws : WalkState} (hs : TypedState s) (hw : s.walkers[w]? = some ws) :
    walkStateInType s.cfg.faultInfos ws = true :=
  hs.1 ws (List.mem_of_getElem? hw)

/-- R44: in a typed state what a read returns is typed. -/
theorem TypedState.readInType_memRead (hs : TypedState s) (a : Word) :
    readInType s.cfg.faultInfos (memRead s.cfg s.reader a).1 = true := by
  obtain ⟨-, hanswers, -, -⟩ := hs
  exact (memRead_inType hanswers a).1

/-- R54: the answers that a read leaves to come are those of a typed state. -/
theorem typedState_memRead (hs : TypedState s) (a : Word) :
    TypedState { s with reader := (memRead s.cfg s.reader a).2 } := by
  obtain ⟨hwalkers, hanswers, hrest⟩ := hs
  exact ⟨hwalkers, (memRead_inType hanswers a).2, hrest⟩

/-- R32: the event of a walk step's read carries the typed answer of the read. -/
theorem typedState_readEntry (k : Walk) (hs : TypedState s) : TypedState (readEntry k s).2 := by
  obtain ⟨hwalkers, hanswers, hevents, hreplies⟩ := typedState_memRead hs (walkAddr k)
  refine ⟨hwalkers, hanswers, fun ev hev => ?_, hreplies⟩
  obtain hev | hev := List.mem_append.mp hev
  · exact hevents ev hev
  · rw [List.mem_singleton.mp hev]
    exact hs.readInType_memRead (walkAddr k)

/-! ## The effects on a walk -/

section Effects
variable (ty : FaultInfoType) (k : Walk)

@[simp] theorem walkStateInType_raise (e : TranslationError) :
    walkStateInType ty (raise k e) = resultInType ty (.err e) := rfl
@[simp] theorem walkStateInType_finish (pa : Word) : walkStateInType ty (finish k pa) = true := rfl
@[simp] theorem walkStateInType_descend (next : Level) (e : Word) :
    walkStateInType ty (descend k next e) = true := rfl
@[simp] theorem resultInType_unexpectedHugePage (l : Level) :
    resultInType ty (.err (.unexpectedHugePage l)) = true := rfl

/-- R135: no policy puts fault information into the walk. -/
theorem effectPdePs1_inType (c : Config) (e : Word) : walkStateInType ty (effectPdePs1 c e k) = true := by
  unfold effectPdePs1
  cases c.pdPsPolicy <;> simp

/-- R127: no entry class puts fault information into the walk. -/
theorem entryEffect_inType (c : Config) (e : Word) : walkStateInType ty (entryEffect c k e) = true := by
  unfold entryEffect
  cases classify k.wp.level e
  case pdePs1 => exact effectPdePs1_inType ty k c e
  all_goals rfl

/-- R183: the fault information in a walk step's outcome is that of the memory reader's answer. -/
theorem answerEffect_inType {ty : FaultInfoType} {r : ReadResult} (c : Config) (hr : readInType ty r = true) :
    walkStateInType ty (answerEffect c k r) = true := by
  cases r with
  | fault i => exact hr
  | ok e => exact entryEffect_inType ty k c e

end Effects

/-! ## The walk -/

theorem stepWalk_inType (k : Walk) (hs : TypedState s) :
    walkStateInType s.cfg.faultInfos (stepWalk k s).1 = true := by
  rw [stepWalk_fst]
  exact answerEffect_inType k s.cfg (hs.readInType_memRead (walkAddr k))

theorem typedState_stepWalk (k : Walk) (hs : TypedState s) : TypedState (stepWalk k s).2 :=
  typedState_readEntry k hs

/-- R151: walk steps one after the other keep the state typed, and what they end in is typed. -/
theorem iterateWalk_inType (n : Nat) (k : Walk) (hs : TypedState s) :
    TypedState (iterateWalk n k s).2
      ∧ walkStateInType (iterateWalk n k s).2.cfg.faultInfos (iterateWalk n k s).1 = true := by
  induction n generalizing k s with
  | zero => exact ⟨hs, rfl⟩
  | succ n ih =>
    have hstate := typedState_stepWalk k hs
    have hwalk : walkStateInType (stepWalk k s).2.cfg.faultInfos (stepWalk k s).1 = true := stepWalk_inType k hs
    unfold iterateWalk
    split <;> rename_i heq <;> rw [heq] at hstate hwalk
    · exact ih _ hstate
    · exact ⟨hstate, hwalk⟩
    · exact ⟨hstate, hwalk⟩

/-! ## The instructions -/

/-- R127: an entry class whose effect is typed keeps the state typed. -/
theorem typedState_onWalk {lvl : Level} {f : Walk → WalkState} (hs : TypedState s)
    (hf : ∀ k, walkStateInType s.cfg.faultInfos (f k) = true) (h : onWalk lvl f s = .next t) : TypedState t := by
  obtain ⟨k, -, -, rfl⟩ := onWalk_next h
  exact typedState_setWalker hs (hf k)

/-- R90, R102: a typed value that leaves the block keeps the state typed. -/
theorem typedState_answerCall {r : Reply} (hs : TypedState s) (hr : replyInType s.cfg.faultInfos r = true)
    (h : answerCall r s = .next t) : TypedState t := by
  cases h
  exact typedState_reply hs hr

theorem typedState_execTranslate {tb va : Word} (hs : TypedState s) (h : execTranslate tb va s = .next t) :
    TypedState t := by
  obtain ⟨r, n, s', hit, rfl⟩ := execTranslate_next h
  obtain ⟨hstate, hresult⟩ :=
    iterateWalk_inType (s := { s with nWalks := s.nWalks + 1 }) 4 (startWalk s.nWalks tb va) hs
  rw [hit] at hstate hresult
  exact typedState_reply hstate hresult

/-- Every instruction keeps the state typed: an entry class adds no fault information, and of the operations only
`read_u64`, `walk_step` and `translate` pass on what the memory reader gives. -/
theorem typedState_exec {i : Instr} (hs : TypedState s) (h : exec i s = .next t) : TypedState t := by
  cases i with
  | pml4eNp | pml4eTbl | pdpteNp | pdpteTbl | pdptePg1g | pdeNp | pdeTbl | pteNp | ptePg4k | ptePs1 =>
    exact typedState_onWalk hs (fun _ => rfl) h
  | pdePs1 e => exact typedState_onWalk hs (fun k => effectPdePs1_inType _ k s.cfg e) h
  | select =>
    obtain ⟨r, -, rfl⟩ := execSelect_next h
    exact typedState_reply hs rfl
  | install =>
    obtain ⟨r, -, rfl⟩ := execInstall_next h
    exact typedState_reply hs rfl
  | readU64 a => exact typedState_answerCall (r := .read _) (typedState_memRead hs a) (hs.readInType_memRead a) h
  | translate => exact typedState_execTranslate hs h
  | walkStep k =>
    obtain ⟨-, rfl⟩ := execWalkStep_next h
    exact typedState_reply (typedState_stepWalk k hs) (stepWalk_inType k hs)
  | frameBase | index | entryAddrPml4 | entryAddrPdpt | entryAddrPd | entryAddrPt | classify
  | pageAddr4k | pageAddr1g | pageAddr2m => exact typedState_answerCall hs rfl h

/-! ## The moves -/

theorem typedState_fetch_entry {w : Nat} {i : Instr} (hs : TypedState s) (h : fetch w s = .entry i t) :
    TypedState t := by
  obtain ⟨k, e, -, hread, -⟩ := fetch_entry h
  have ht := typedState_readEntry (s := { s with active := w }) k hs
  rwa [hread] at ht

theorem typedState_fetch_ended {w : Nat} (hs : TypedState s) (h : fetch w s = .ended t) : TypedState t := by
  obtain ⟨k, info, s', -, hread, rfl⟩ := fetch_ended h
  have hs' := typedState_readEntry (s := { s with active := w }) k hs
  have hinfo : readInType (readEntry k { s with active := w }).2.cfg.faultInfos
      (readEntry k { s with active := w }).1 = true := hs.readInType_memRead (walkAddr k)
  rw [hread] at hs' hinfo
  exact typedState_setWalker hs' hinfo

theorem typedState_takeRequest {w : Nat} {tb va : Word} (hs : TypedState s)
    (h : takeRequest w tb va s = .next t) : TypedState t := by
  obtain ⟨-, rfl⟩ := takeRequest_next h
  exact typedState_setWalker hs rfl

theorem typedState_deliver {w : Nat} (hs : TypedState s) (h : deliver w s = .next t) : TypedState t := by
  obtain ⟨r, n, hw, rfl⟩ := deliver_next h
  exact typedState_reply (typedState_setWalker hs rfl) (hs.walker hw)

theorem typedState_answerMove {x : Answer} (hs : TypedState s) (h : answerMove x s = .next t) : TypedState t := by
  obtain ⟨hx, rfl⟩ := answerMove_next h
  obtain ⟨hwalkers, hanswers, hrest⟩ := hs
  refine ⟨hwalkers, fun y hy => ?_, hrest⟩
  obtain hy | hy := List.mem_append.mp hy
  · exact hanswers y hy
  · rwa [List.mem_singleton.mp hy]

/-- Settles O55: every move keeps the state typed. An answer still on the agenda need not be of the type: the move that would
decide on it is refused if it is not. -/
theorem stepKeepsFaultInfosInType : Obligations.StepKeepsFaultInfosInType := by
  intro s t hs h
  have hrest (rest : List Move) : TypedState { s with agenda := rest } := hs
  unfold step at h
  split at h
  case h_1 => cases h; exact hs
  case h_2 w rest _ =>
    split at h
    case h_1 i s' hfetch => exact typedState_exec (typedState_fetch_entry (hrest rest) hfetch) h
    case h_2 s' hfetch => cases h; exact typedState_fetch_ended (hrest rest) hfetch
    case h_3 => cases h
  case h_3 i rest _ =>
    split at h
    · exact typedState_exec (hrest rest) h
    · cases h
  case h_4 rest _ => exact typedState_takeRequest (hrest rest) h
  case h_5 rest _ => exact typedState_deliver (hrest rest) h
  case h_6 rest _ => cases h; exact typedState_setMem (hrest rest)
  case h_7 rest _ => cases h; exact typedState_setMem (hrest rest)
  case h_8 rest _ => cases h; exact typedState_setMem (hrest rest)
  case h_9 rest _ => exact typedState_answerMove (hrest rest) h

end Sys2Proof.Machine
end

section
/-! What one step of the machine can do, said once: `Stepped`, one constructor per move. A statement about every step is a case
analysis over it. -/

namespace Sys2Proof.Machine

variable {s t : State}

/-- A fetched entry is of a class of the level it was read at. -/
theorem classify_level (lvl : Level) (e : Word) : (classify lvl e).level = lvl := by
  unfold classify
  cases lvl <;> cases present e <;> cases pageSize e <;> rfl

/-- R127: the instruction decoded from an entry has the entry's effect on the walk of the active walker. -/
theorem exec_decodeEntry {k : Walk} (hk : s.walkers[s.active]? = some (.walking k)) (e : Word) :
    exec (decodeEntry k.wp.level e) s = .next (setWalker s s.active (entryEffect s.cfg k e)) := by
  have hlevel := classify_level k.wp.level e
  unfold decodeEntry entryEffect
  cases hclass : classify k.wp.level e <;> rw [hclass] at hlevel <;> exact onWalk_walking _ hk hlevel.symm

/-- An entry class changes the walk state of the active walker only. -/
theorem execEntry_next {i : Instr} (hi : i.isOperation = false) (h : exec i s = .next t) :
    ∃ ws, t = setWalker s s.active ws := by
  cases i with
  | pml4eNp | pml4eTbl | pdpteNp | pdpteTbl | pdptePg1g | pdeNp | pdeTbl | pdePs1 | pteNp | ptePg4k | ptePs1 =>
    obtain ⟨k, -, -, ht⟩ := onWalk_next h
    exact ⟨_, ht⟩
  | _ => cases hi

/-- R140: the machine's walk step of a walker in a walk, by fetch, decode and dispatch, is `stepWalk` on its latches. -/
theorem step_walk {w : Nat} {rest : List Move} {k : Walk} (hagenda : s.agenda = .walk w :: rest)
    (hw : s.walkers[w]? = some (.walking k)) :
    step s = .next (setWalker (stepWalk k { s with agenda := rest, active := w }).2 w
      (stepWalk k { s with agenda := rest, active := w }).1) := by
  cases hread : readEntry k { s with agenda := rest, active := w } with
  | mk r s' =>
    have hs' : s' = (readEntry k { s with agenda := rest, active := w }).2 := by rw [hread]
    have hcfg : s'.cfg = s.cfg := by rw [hs']; rfl
    have hactive : s'.active = w := by rw [hs']; rfl
    have hk : s'.walkers[s'.active]? = some (.walking k) := by rw [hactive, hs']; exact hw
    cases r with
    | ok e => simp [step, hagenda, fetch, hw, hread, exec_decodeEntry hk, hcfg, hactive, stepWalk, answerEffect]
    | fault i => simp [step, hagenda, fetch, hw, hread, stepWalk, answerEffect]

/-- R140: a walk step goes through only where the walker is walking. -/
theorem walking_of_step_walk {w : Nat} {rest : List Move} (hagenda : s.agenda = .walk w :: rest)
    (h : step s = .next t) : ∃ k, s.walkers[w]? = some (.walking k) := by
  simp only [step, hagenda] at h
  split at h
  case h_1 i s' hfetch =>
    obtain ⟨k, e, hw, -⟩ := fetch_entry hfetch
    exact ⟨k, hw⟩
  case h_2 s' hfetch =>
    obtain ⟨k, i, s'', hw, -⟩ := fetch_ended hfetch
    exact ⟨k, hw⟩
  case h_3 => cases h

/-- R33: with nothing on the agenda the machine stays as it is. -/
theorem step_nil (hagenda : s.agenda = []) : step s = .next s := by
  simp [step, hagenda]

/-- R26: an Idle walker takes a request. -/
theorem step_request {w : Nat} {tb va : Word} {rest : List Move} (hagenda : s.agenda = .request w tb va :: rest)
    (hw : s.walkers[w]? = some .idle) :
    step s = .next (setWalker { s with agenda := rest, nWalks := s.nWalks + 1 } w
      (.walking (startWalk s.nWalks tb va))) := by
  simp [step, hagenda, takeRequest, hw]

/-- R27: a Done walker delivers its result. -/
theorem step_respond {w n : Nat} {r : WalkResult} {rest : List Move} (hagenda : s.agenda = .respond w :: rest)
    (hw : s.walkers[w]? = some (.done r n)) :
    step s = .next (reply (setWalker { s with agenda := rest } w .idle) (.response w r)) := by
  simp [step, hagenda, deliver, hw]

/-- The steps that go through: from `s`, by the next move on its agenda, to the state of the second argument. -/
inductive Stepped (s : State) : State → Prop
  | nothing (hagenda : s.agenda = []) : Stepped s s
  | request {w : Nat} {tb va : Word} {rest : List Move} (hagenda : s.agenda = .request w tb va :: rest)
      (hw : s.walkers[w]? = some .idle) :
      Stepped s (setWalker { s with agenda := rest, nWalks := s.nWalks + 1 } w (.walking (startWalk s.nWalks tb va)))
  | walk {w : Nat} {rest : List Move} {k : Walk} (hagenda : s.agenda = .walk w :: rest)
      (hw : s.walkers[w]? = some (.walking k)) :
      Stepped s (setWalker (stepWalk k { s with agenda := rest, active := w }).2 w
        (stepWalk k { s with agenda := rest, active := w }).1)
  | respond {w n : Nat} {r : WalkResult} {rest : List Move} (hagenda : s.agenda = .respond w :: rest)
      (hw : s.walkers[w]? = some (.done r n)) :
      Stepped s (reply (setWalker { s with agenda := rest } w .idle) (.response w r))
  | call {i : Instr} {rest : List Move} {t : State} (hagenda : s.agenda = .call i :: rest) (hi : i.isOperation = true)
      (hexec : exec i { s with agenda := rest } = .next t) : Stepped s t
  | store {a v : Word} {rest : List Move} (hagenda : s.agenda = .store a v :: rest) :
      Stepped s (setMem { s with agenda := rest } (writeWord s.reader.mem a v))
  | poke {a : Word} {b : Byte} {rest : List Move} (hagenda : s.agenda = .poke a b :: rest) :
      Stepped s (setMem { s with agenda := rest } (writeByte s.reader.mem a.toNat b))
  | unmap {a : Word} {rest : List Move} (hagenda : s.agenda = .unmap a :: rest) :
      Stepped s (setMem { s with agenda := rest } (eraseByte s.reader.mem a.toNat))
  | answer {x : Answer} {rest : List Move} (hagenda : s.agenda = .answer x :: rest)
      (hx : answerInType s.cfg.faultInfos x = true) :
      Stepped s { s with agenda := rest, reader := { s.reader with answers := s.reader.answers ++ [x] } }

/-- Every step that goes through is one of `Stepped`. -/
theorem step_next (h : step s = .next t) : Stepped s t := by
  cases hagenda : s.agenda with
  | nil =>
    rw [step_nil hagenda] at h
    cases h
    exact .nothing hagenda
  | cons move rest =>
    cases move with
    | walk w =>
      obtain ⟨k, hw⟩ := walking_of_step_walk hagenda h
      rw [step_walk hagenda hw] at h
      cases h
      exact .walk hagenda hw
    | request w tb va =>
      simp only [step, hagenda] at h
      obtain ⟨hw, rfl⟩ := takeRequest_next h
      exact .request hagenda hw
    | respond w =>
      simp only [step, hagenda] at h
      obtain ⟨r, n, hw, rfl⟩ := deliver_next h
      exact .respond hagenda hw
    | call i =>
      simp only [step, hagenda] at h
      split at h
      case isTrue hi => exact .call hagenda hi h
      case isFalse => cases h
    | store a v =>
      simp only [step, hagenda, storeMove] at h
      cases h
      exact .store hagenda
    | poke a b =>
      simp only [step, hagenda, pokeMove] at h
      cases h
      exact .poke hagenda
    | unmap a =>
      simp only [step, hagenda, unmapMove] at h
      cases h
      exact .unmap hagenda
    | answer x =>
      simp only [step, hagenda] at h
      obtain ⟨hx, rfl⟩ := answerMove_next h
      exact .answer hagenda hx

end Sys2Proof.Machine
end

section
/-! The addresses a walk computes, bit by bit: a frame base is one for good, the address of an entry is 8-byte aligned and
below 2^52 (R42, R49), and page addresses stay in their range (R78). -/

namespace Sys2Proof.Machine

/-- Words that agree on a slice agree on each bit of it. -/
theorem getLsbD_eq_of_extractLsb'_eq {x y : Word} {low width i : Nat}
    (h : x.extractLsb' low width = y.extractLsb' low width) (hlow : low ≤ i) (hhigh : i < low + width) :
    x.getLsbD i = y.getLsbD i := by
  have hbit := congrArg (fun z => z.getLsbD (i - low)) h
  simpa [show i - low < width by omega, show low + (i - low) = i by omega] using hbit

/-- A slice is zero where each bit of it is clear. -/
theorem extractLsb'_eq_zero {x : Word} {low width : Nat}
    (h : ∀ i, low ≤ i → i < low + width → x.getLsbD i = false) : x.extractLsb' low width = 0 := by
  apply BitVec.eq_of_getLsbD_eq
  intro i hi
  simp [hi, h (low + i) (by omega) (by omega)]

/-- R120: a frame base is one, so that it has no bits outside 51:12. -/
@[simp] theorem frameBase_frameBase (x : Word) : frameBase (frameBase x) = frameBase x := by
  apply BitVec.eq_of_getLsbD_eq
  intro i _
  simp only [getLsbD_frameBase]
  cases decide (12 ≤ i ∧ i ≤ 51) <;> simp

/-- R120: bits 51:12 are kept by one mask. -/
theorem frameBase_eq_and (x : Word) : frameBase x = x &&& 0x000FFFFFFFFFF000 := by
  have hmask : ∀ i < 64, (0x000FFFFFFFFFF000 : Word).getLsbD i = decide (12 ≤ i ∧ i ≤ 51) := by decide
  apply BitVec.eq_of_getLsbD_eq
  intro i hi
  rw [getLsbD_frameBase, BitVec.getLsbD_and, hmask i hi, Bool.and_comm]

/-- R120: only bits 51:12 of the source count. -/
theorem frameBase_congr {x y : Word} (h : x.extractLsb' 12 40 = y.extractLsb' 12 40) : frameBase x = frameBase y := by
  apply BitVec.eq_of_getLsbD_eq
  intro i _
  rw [getLsbD_frameBase, getLsbD_frameBase]
  by_cases hi : 12 ≤ i ∧ i ≤ 51
  · rw [getLsbD_eq_of_extractLsb'_eq h hi.1 (by omega)]
  · simp [hi]

/-- A frame base has no bits below 12 or above 51. -/
theorem getLsbD_of_frameBase_eq {base : Word} (hbase : frameBase base = base) {i : Nat} (hi : i < 12 ∨ 51 < i) :
    base.getLsbD i = false := by
  rw [← hbase, getLsbD_frameBase]
  simp [show ¬ (12 ≤ i ∧ i ≤ 51) by omega]

/-- R80: outside the index field an entry address over a frame base has bits 51:12 only. -/
theorem getLsbD_walkAddr_eq_false {k : Walk} (hbase : frameBase k.wp.base = k.wp.base) {i : Nat} (hi : i < 3 ∨ 51 < i) :
    (walkAddr k).getLsbD i = false := by
  rw [walkAddr, getLsbD_entryAddr, if_neg (by omega)]
  exact getLsbD_of_frameBase_eq hbase (by omega)

/-- R49: the entry a walk reads is at an 8-byte aligned address. -/
theorem walkAddr_aligned {k : Walk} (hbase : frameBase k.wp.base = k.wp.base) : (walkAddr k).extractLsb' 0 3 = 0 :=
  extractLsb'_eq_zero fun _ _ _ => getLsbD_walkAddr_eq_false hbase (by omega)

/-- R42: the entry a walk reads is at an address below 2^52. -/
theorem walkAddr_below {k : Walk} (hbase : frameBase k.wp.base = k.wp.base) : (walkAddr k).extractLsb' 52 12 = 0 :=
  extractLsb'_eq_zero fun _ _ _ => getLsbD_walkAddr_eq_false hbase (by omega)

/-- R71: a frame number has 40 bits. -/
theorem getLsbD_frameNumber_eq_false (e : Word) {i : Nat} (hi : 40 ≤ i) : (frameNumber e).getLsbD i = false := by
  simp [frameNumber, frameField, BitRange.width, show ¬ i < 40 by omega]

/-- R78: the address in a 4 KiB page is below 2^52. -/
theorem pageAddr4k_below (e va : Word) : (pageAddr4k e va).extractLsb' 52 12 = 0 := by
  refine extractLsb'_eq_zero fun i hlow _ => ?_
  rw [pageAddr4k, getLsbD_install, if_neg (by simp only [offset4k]; omega), BitVec.getLsbD_shiftLeft,
    getLsbD_frameNumber_eq_false e (by omega), Bool.and_false]

/-- R78: the address in a 2 MiB page is below 2^61. -/
theorem pageAddr2m_below (e va : Word) : (pageAddr2m e va).extractLsb' 61 3 = 0 := by
  refine extractLsb'_eq_zero fun i hlow _ => ?_
  rw [pageAddr2m, getLsbD_install, if_neg (by simp only [offset2m]; omega), BitVec.getLsbD_shiftLeft,
    getLsbD_frameNumber_eq_false e (by omega), Bool.and_false]

end Sys2Proof.Machine
end

section
/-! What a called operation can do to the state: it reads, and a value leaves the block (R90, R102). -/

namespace Sys2Proof.Machine

variable {s t u : State}

/-- What reads at legal addresses and replies can lead to: the walkers, the parameters, the moves to come and the image are as
before, and every new read event is at a legal address. -/
structure OnlyReads (s t : State) : Prop where
  walkers : t.walkers = s.walkers
  active  : t.active = s.active
  cfg     : t.cfg = s.cfg
  agenda  : t.agenda = s.agenda
  mem     : t.reader.mem = s.reader.mem
  events  : ∀ ev ∈ t.events, ev ∈ s.events ∨ legalEvent ev = true

theorem OnlyReads.refl (s : State) : OnlyReads s s := ⟨rfl, rfl, rfl, rfl, rfl, fun _ => .inl⟩

theorem OnlyReads.trans (hst : OnlyReads s t) (htu : OnlyReads t u) : OnlyReads s u where
  walkers := htu.walkers.trans hst.walkers
  active := htu.active.trans hst.active
  cfg := htu.cfg.trans hst.cfg
  agenda := htu.agenda.trans hst.agenda
  mem := htu.mem.trans hst.mem
  events ev hev := (htu.events ev hev).elim (hst.events ev) .inr

theorem OnlyReads.reply (h : OnlyReads s t) (r : Reply) : OnlyReads s (reply t r) :=
  ⟨h.walkers, h.active, h.cfg, h.agenda, h.mem, h.events⟩

/-- Counting a walk reads nothing. -/
theorem onlyReads_nWalks (s : State) (n : Nat) : OnlyReads s { s with nWalks := n } :=
  ⟨rfl, rfl, rfl, rfl, rfl, fun _ => .inl⟩

/-- R42, R49: the read of a walk step is at a legal address where the walk holds a frame base. -/
theorem onlyReads_stepWalk {k : Walk} (hbase : frameBase k.wp.base = k.wp.base) (s : State) :
    OnlyReads s (stepWalk k s).2 where
  walkers := rfl
  active := rfl
  cfg := rfl
  agenda := rfl
  mem := memRead_mem _ _ _
  events ev hev := by
    refine (List.mem_append.mp hev).imp id fun hnew => ?_
    rw [List.mem_singleton.mp hnew]
    simp [legalEvent, walkAddr_aligned hbase, walkAddr_below hbase]

/-- R25: a walk that goes on is at the next level with the frame base of the entry read, and has made one read more. -/
theorem answerEffect_walking {c : Config} {k j : Walk} {r : ReadResult} (h : answerEffect c k r = .walking j) :
    ∃ e, r = .ok e ∧ nextLevel k.wp.level = some j.wp.level
      ∧ j = { k with wp := ⟨j.wp.level, frameBase e⟩, nreads := k.nreads + 1 } := by
  obtain ⟨x, hx⟩ | ⟨pa, hpa⟩ | ⟨e, next, hr, hnext, hdescend⟩ := answerEffect_cases c k r
  · rw [hx] at h; cases h
  · rw [hpa] at h; cases h
  · rw [hdescend] at h; cases h; exact ⟨e, hr, hnext, rfl⟩

/-- R151: the reads of a whole walk are at legal addresses where its start holds a frame base. -/
theorem onlyReads_iterateWalk (n : Nat) {k : Walk} (hbase : frameBase k.wp.base = k.wp.base) (s : State) :
    OnlyReads s (iterateWalk n k s).2 := by
  induction n generalizing k s with
  | zero => exact .refl s
  | succ n ih =>
    have hstep := onlyReads_stepWalk hbase s
    unfold iterateWalk
    split <;> rename_i heq <;> rw [heq] at hstep
    case h_1 k' s' =>
      obtain ⟨e, -, -, hk'⟩ := answerEffect_walking (congrArg Prod.fst heq)
      exact hstep.trans (ih (by rw [hk', frameBase_frameBase]) s')
    case h_2 => exact hstep
    case h_3 => exact hstep

/-- R90, R102: an operation only reads. -/
theorem execOperation_next {i : Instr} (hi : i.isOperation = true) (h : exec i s = .next t) : OnlyReads s t := by
  cases i with
  | select =>
    obtain ⟨r, -, rfl⟩ := execSelect_next h
    exact (OnlyReads.refl s).reply _
  | install =>
    obtain ⟨r, -, rfl⟩ := execInstall_next h
    exact (OnlyReads.refl s).reply _
  | readU64 a =>
    cases h
    exact ⟨rfl, rfl, rfl, rfl, memRead_mem _ _ _, fun _ => .inl⟩
  | translate tb va =>
    obtain ⟨r, n, s', hit, rfl⟩ := execTranslate_next h
    have hwalk := onlyReads_iterateWalk 4 (k := startWalk s.nWalks tb va) (frameBase_frameBase tb)
      { s with nWalks := s.nWalks + 1 }
    rw [hit] at hwalk
    exact ((onlyReads_nWalks s (s.nWalks + 1)).trans hwalk).reply _
  | walkStep k =>
    obtain ⟨hk, rfl⟩ := execWalkStep_next h
    simp only [legalWalk, Bool.and_eq_true, decide_eq_true_eq] at hk
    exact (onlyReads_stepWalk hk.1 s).reply _
  | frameBase | index | entryAddrPml4 | entryAddrPdpt | entryAddrPd | entryAddrPt | classify
  | pageAddr4k | pageAddr1g | pageAddr2m =>
    cases h
    exact (OnlyReads.refl s).reply _
  | _ => cases hi

end Sys2Proof.Machine
end

section
/-! Safe states (R24, R25, R42, R154, R185). One rule per operation on the state, the legal outcomes of a walk step, and then
one case per move. -/

namespace Sys2Proof.Machine

variable {s t : State}

/-! ## The operations on the state -/

theorem safeState_setWalker {w : Nat} {ws : WalkState} (hs : SafeState s) (hws : legalWalkState s.cfg ws = true) :
    SafeState (setWalker s w ws) := by
  obtain ⟨hne, hwalkers, hrest⟩ := hs
  refine ⟨by simpa using hne, fun x hx => ?_, hrest⟩
  obtain hx | rfl := List.mem_or_eq_of_mem_set hx
  · exact hwalkers x hx
  · exact hws

theorem safeState_setMem {m : Memory} (hs : SafeState s) (hm : Memory.wf m) : SafeState (setMem s m) := by
  obtain ⟨hne, hwalkers, hevents, -⟩ := hs
  exact ⟨hne, hwalkers, hevents, hm⟩

/-- Reads at legal addresses and replies keep a state safe. -/
theorem OnlyReads.safeState (h : OnlyReads s t) (hs : SafeState s) : SafeState t := by
  obtain ⟨hne, hwalkers, hevents, hmem⟩ := hs
  rw [SafeState, h.walkers, h.cfg, h.mem]
  exact ⟨hne, hwalkers, fun ev hev => (h.events ev hev).elim (hevents ev) id, hmem⟩

/-- R24, R25: a walk in a safe state holds a frame base, and its read count goes with its level. -/
theorem SafeState.walking {w : Nat} {k : Walk} (hs : SafeState s) (hw : s.walkers[w]? = some (.walking k)) :
    frameBase k.wp.base = k.wp.base ∧ k.nreads = ordinal k.wp.level := by
  obtain ⟨-, hwalkers, -⟩ := hs
  simpa [legalWalkState] using hwalkers _ (List.mem_of_getElem? hw)

theorem SafeState.mem_wf (hs : SafeState s) : Memory.wf s.reader.mem := by
  obtain ⟨-, -, -, hmem⟩ := hs
  exact hmem

/-! ## The outcomes of a walk step -/

section Outcomes
variable {k : Walk} (c : Config) (hk : k.nreads = ordinal k.wp.level)
include hk

/-- R154: an entry with P clear ends the walk after one read for each level down to its own. -/
theorem legalWalkState_raise_notPresent {l : Level} (hl : l = k.wp.level) :
    legalWalkState c (raise k (.notPresent l)) = true := by
  simp [raise, legalWalkState, legalDone, hk, hl]

/-- R154: an access fault ends the walk after one to four reads. -/
theorem legalWalkState_raise_accessFault (i : FaultInfo) : legalWalkState c (raise k (.accessFault i)) = true := by
  have hlevel : ordinal k.wp.level < 4 := by cases k.wp.level <;> decide
  simp [raise, legalWalkState, legalDone, hk, hlevel]

/-- R25: a descent holds a frame base and has made one read for each level above its own. -/
theorem legalWalkState_descend {next : Level} (hnext : nextLevel k.wp.level = some next) (e : Word) :
    legalWalkState c (descend k next e) = true := by
  have hord : ordinal k.wp.level + 1 = ordinal next := by
    cases hl : k.wp.level <;> rw [hl] at hnext <;> cases hnext <;> rfl
  simp [descend, legalWalkState, hk, hord]

/-- R135: a PD entry with P and PS set ends the walk after three reads, or goes on to the PT, by the policy. -/
theorem legalWalkState_effectPdePs1 (hl : k.wp.level = .pd) (e : Word) :
    legalWalkState c (effectPdePs1 c e k) = true := by
  have hthree : k.nreads = 2 := by rw [hk, hl]; rfl
  unfold effectPdePs1
  cases hpolicy : c.pdPsPolicy with
  | fault => simp [raise, legalWalkState, legalDone, hthree, hpolicy]
  | map2m => simp [finish, legalWalkState, legalDone, hthree, hpolicy, pageAddr2m_below]
  | ignore => exact legalWalkState_descend c hk (by rw [hl]; rfl) e

/-- R154: every entry leads from a legal walk to a legal walk state. -/
theorem legalWalkState_entryEffect (e : Word) : legalWalkState c (entryEffect c k e) = true := by
  have hl := classify_level k.wp.level e
  unfold entryEffect
  cases hclass : classify k.wp.level e <;> rw [hclass] at hl
  case pml4eNp | pdpteNp | pdeNp | pteNp => exact legalWalkState_raise_notPresent c hk hl
  case pml4eTbl | pdpteTbl | pdeTbl => exact legalWalkState_descend c hk (by rw [← hl]; rfl) e
  case pdePs1 => exact legalWalkState_effectPdePs1 c hk hl.symm e
  case pdptePg1g => simp [effectPdptePg1g, finish, legalWalkState, legalDone, hk, ← hl, EntryClass.level, ordinal]
  case ptePg4k =>
    simp [effectPtePg4k, finish, legalWalkState, legalDone, hk, ← hl, EntryClass.level, ordinal, pageAddr4k_below]
  case ptePs1 => simp [effectPtePs1, raise, legalWalkState, legalDone, hk, ← hl, EntryClass.level, ordinal]

/-- R154, R160: whatever the memory reader answers, a legal walk's step leads to a legal walk state. -/
theorem legalWalkState_answerEffect (r : ReadResult) : legalWalkState c (answerEffect c k r) = true := by
  cases r with
  | fault i => exact legalWalkState_raise_accessFault c hk i
  | ok e => exact legalWalkState_entryEffect c hk e

end Outcomes

/-- R26: the start of a walk is legal. -/
theorem legalWalkState_startWalk (c : Config) (id : Nat) (tb va : Word) :
    legalWalkState c (.walking (startWalk id tb va)) = true := by
  simp [legalWalkState, startWalk, ordinal]

/-! ## The step -/

/-- Settles O39, by the cases of a step: the walker's own moves put a legal walk state in its place, calls only read, and
the other writers keep the canonical form. -/
theorem stepKeepsSafeState : Obligations.StepKeepsSafeState := by
  intro s t hs h
  have hrest (rest : List Move) : SafeState { s with agenda := rest } := hs
  have hmem := hs.mem_wf
  cases step_next h with
  | nothing => exact hs
  | @request w tb va rest =>
    exact safeState_setWalker (s := { s with agenda := rest, nWalks := s.nWalks + 1 }) hs
      (legalWalkState_startWalk s.cfg s.nWalks tb va)
  | @walk w rest k hagenda hw =>
    obtain ⟨hbase, hk⟩ := hs.walking hw
    have hread := (onlyReads_stepWalk hbase { s with agenda := rest, active := w }).safeState hs
    exact safeState_setWalker hread (legalWalkState_answerEffect s.cfg hk _)
  | @respond w n r rest =>
    exact ((OnlyReads.refl _).reply _).safeState (safeState_setWalker (ws := .idle) (hrest rest) rfl)
  | @call i rest t hagenda hi hexec => exact (execOperation_next hi hexec).safeState (hrest rest)
  | @store a v rest => exact safeState_setMem (hrest rest) (writeWord_wf a v hmem)
  | @poke a b rest => exact safeState_setMem (hrest rest) (writeByte_wf b hmem a.isLt)
  | @unmap a rest => exact safeState_setMem (hrest rest) (eraseByte_wf a.toNat hmem)
  | answer => exact hs

end Sys2Proof.Machine
end

section
/-! What a step leaves as it was: the parameters and the number of walkers (R34, R21), the walkers whose move it is not
(R21), and the latches of a walk but for its own walk step (R25). -/

namespace Sys2Proof.Machine

variable {s t : State}

theorem OnlyReads.cfg_and_length (h : OnlyReads s t) : t.cfg = s.cfg ∧ t.walkers.length = s.walkers.length :=
  ⟨h.cfg, congrArg List.length h.walkers⟩

theorem exec_cfg_and_length {i : Instr} (h : exec i s = .next t) :
    t.cfg = s.cfg ∧ t.walkers.length = s.walkers.length := by
  cases hi : i.isOperation with
  | true => exact (execOperation_next hi h).cfg_and_length
  | false =>
    obtain ⟨ws, rfl⟩ := execEntry_next hi h
    exact ⟨rfl, List.length_set⟩

theorem step_cfg_and_length (h : step s = .next t) : t.cfg = s.cfg ∧ t.walkers.length = s.walkers.length := by
  cases step_next h with
  | request | walk | respond => exact ⟨rfl, List.length_set⟩
  | @call i rest _ _ _ hexec => exact exec_cfg_and_length (s := { s with agenda := rest }) hexec
  | nothing | store | poke | unmap | answer => exact ⟨rfl, rfl⟩

/-- Settles O41: a step or an instruction puts walk states in place of others, and nothing writes the parameters. -/
theorem parametersNeverChange : Obligations.ParametersNeverChange :=
  ⟨fun _ _ h => step_cfg_and_length h, fun _ _ _ h => exec_cfg_and_length h⟩

/-- A walker's new walk state is not seen at another. -/
theorem getElem?_setWalker_ne {v w : Nat} (hvw : w ≠ v) (s : State) (ws : WalkState) :
    (setWalker s w ws).walkers[v]? = s.walkers[v]? :=
  List.getElem?_set_ne hvw

/-- A walker of the machine has the walk state last given to it. -/
theorem getElem?_setWalker_self {w : Nat} {old : WalkState} (hw : s.walkers[w]? = some old) (ws : WalkState) :
    (setWalker s w ws).walkers[w]? = some ws := by
  obtain ⟨hlt, -⟩ := List.getElem?_eq_some_iff.mp hw
  exact List.getElem?_set_self hlt

/-- Settles O42: a walk step, a request and a response give a walk state to the walker they name only, and the other moves
to none. -/
theorem otherInstancesAreUndisturbed : Obligations.OtherInstancesAreUndisturbed := by
  intro s t v h hwalk hrespond hrequest
  cases step_next h with
  | request hagenda => exact getElem?_setWalker_ne (by rintro rfl; exact hrequest _ _ _ hagenda) _ _
  | walk hagenda => exact getElem?_setWalker_ne (by rintro rfl; exact hwalk _ hagenda) _ _
  | respond hagenda => exact getElem?_setWalker_ne (by rintro rfl; exact hrespond _ hagenda) _ _
  | call _ hi hexec => rw [(execOperation_next hi hexec).walkers]
  | nothing | store | poke | unmap | answer => rfl

/-- R24, R27: the walk state of a walker in a walk changes by its own walk step only: no request and no response is its move. -/
theorem agenda_of_walking_changed {w : Nat} {k : Walk} (hw : s.walkers[w]? = some (.walking k)) (h : step s = .next t)
    (hchanged : t.walkers[w]? ≠ s.walkers[w]?) : ∃ rest, s.agenda = .walk w :: rest := by
  cases step_next h with
  | request _ hidle => exact absurd (getElem?_setWalker_ne (by rintro rfl; simp [hw] at hidle) _ _) hchanged
  | respond _ hdone => exact absurd (getElem?_setWalker_ne (by rintro rfl; simp [hw] at hdone) _ _) hchanged
  | @walk v rest k' hagenda =>
    have hvw : v = w := by_contra fun hne => hchanged (getElem?_setWalker_ne hne _ _)
    exact ⟨rest, hvw ▸ hagenda⟩
  | call _ hi hexec => exact absurd (by rw [(execOperation_next hi hexec).walkers]) hchanged
  | nothing | store | poke | unmap | answer => exact absurd rfl hchanged

/-- Settles O44: the latches change by the walker's own walk step only, which goes on where the entry read descends. -/
theorem walkPointerAdvancesOneLevel : Obligations.WalkPointerAdvancesOneLevel := by
  intro s t w k j hw ht h
  by_cases hjk : j = k
  · exact .inl hjk
  obtain ⟨rest, hagenda⟩ := agenda_of_walking_changed hw h (by simpa [hw, ht] using hjk)
  rw [step_walk hagenda hw] at h
  cases h
  rw [getElem?_setWalker_self (s := (stepWalk k { s with agenda := rest, active := w }).2) hw, Option.some.injEq,
    stepWalk_fst] at ht
  obtain ⟨e, hread, hnext, hj⟩ := answerEffect_walking ht
  refine .inr ⟨rest, e, hagenda, hnext, hj, ?_⟩
  rw [setWalker_events, stepWalk_snd, hread]

end Sys2Proof.Machine
end

section
/-! Walk steps over a readable image (R21, R55): the read gives the entry at the walk's entry address and leaves the memory
reader as it was. -/

namespace Sys2Proof.Machine

/-- R44: with no answer decided on, the read of a readable aligned address gives its word and draws nothing. -/
theorem memRead_of_readWord {m : Reader} {a v : Word} (c : Config) (hanswers : m.answers = [])
    (haligned : a.extractLsb' 0 3 = 0) (hread : readWord m.mem a = some v) : memRead c m a = (.ok v, m) := by
  obtain ⟨mem, answers, draws⟩ := m
  simp only at hanswers hread
  simp [memRead, imageAnswer, hanswers, haligned, hread]

/-- The state that a walk step of walker `w` leads to where the entry `e` is read from the image. -/
def afterImageStep (s : State) (w : Nat) (k : Walk) (e : Word) (rest : List Move) : State :=
  { s with
    walkers := s.walkers.set w (entryEffect s.cfg k e)
    active := w
    agenda := rest
    events := s.events ++ [⟨k.id, k.wp.level, walkAddr k, .ok e⟩] }

/-- R140: a walk step over a readable image goes through, with the effect of the entry there. -/
theorem step_walk_image {s : State} {w : Nat} {k : Walk} {e : Word} {rest : List Move}
    (hagenda : s.agenda = .walk w :: rest) (hanswers : s.reader.answers = [])
    (hw : s.walkers[w]? = some (.walking k)) (hbase : frameBase k.wp.base = k.wp.base)
    (hread : readWord s.reader.mem (walkAddr k) = some e) : step s = .next (afterImageStep s w k e rest) := by
  rw [step_walk hagenda hw, stepWalk_fst, stepWalk_snd]
  simp only [memRead_of_readWord s.cfg hanswers (walkAddr_aligned hbase) hread]
  rfl

/-- R21: after the walk step of one walker the other walker's walk step goes through as it would have before it. -/
theorem run_two_walk_steps {s : State} {v w : Nat} {k j : Walk} {e f : Word} {rest : List Move} (hvw : v ≠ w)
    (hanswers : s.reader.answers = [])
    (hv : s.walkers[v]? = some (.walking k)) (hw : s.walkers[w]? = some (.walking j))
    (hk : frameBase k.wp.base = k.wp.base) (hj : frameBase j.wp.base = j.wp.base)
    (he : readWord s.reader.mem (walkAddr k) = some e) (hf : readWord s.reader.mem (walkAddr j) = some f) :
    Host.Core.run Sys2Proof.core 2 { s with agenda := .walk v :: .walk w :: rest }
      = .next (afterImageStep (afterImageStep s v k e (.walk w :: rest)) w j f rest) := by
  have hfirst : step { s with agenda := .walk v :: .walk w :: rest } = .next (afterImageStep s v k e (.walk w :: rest)) :=
    step_walk_image rfl hanswers hv hk he
  have hsecond := step_walk_image (s := afterImageStep s v k e (.walk w :: rest)) rfl hanswers
    ((List.getElem?_set_ne hvw).trans hw) hj hf
  rw [run_succ_next 1 hfirst, run_succ_next 0 hsecond, run_zero]

/-- Settles O45: each walk step reads its own entry and sets its own walk state, and settings of different walkers commute. -/
theorem walkStepsOfTwoInstancesCommute : Obligations.WalkStepsOfTwoInstancesCommute := by
  intro s v w k j e f rest hvw hanswers hv hw hk hj he hf
  exact ⟨_, _, run_two_walk_steps hvw hanswers hv hw hk hj he hf,
    run_two_walk_steps hvw.symm hanswers hw hv hj hk hf he, List.set_comm _ _ hvw, rfl, rfl⟩

end Sys2Proof.Machine
end

section
/-! R29, R41: the walk looks at bits 47:0 of the virtual address only. Two walks that differ above them give the same outcome
step by step. -/

namespace Sys2Proof.Machine

/-- The walk state with another virtual address in the latch of a walk in progress. -/
def WalkState.withVa (va : Word) : WalkState → WalkState
  | .idle => .idle
  | .walking k => .walking { k with va := va }
  | .done r n => .done r n

/-- R100: a selected field depends on the bits of the field only. -/
theorem select_congr {x y : Word} {r : BitRange} (h : ∀ i, r.low ≤ i → i ≤ r.high → x.getLsbD i = y.getLsbD i) :
    select x r = select y r := by
  have hwidth := low_add_width r
  apply BitVec.eq_of_getLsbD_eq
  intro i _
  rw [getLsbD_select, getLsbD_select]
  by_cases hi : i < r.width
  · rw [h (r.low + i) (by omega) (by omega)]
  · simp [hi]

/-- R70: every index field is in bits 47:0. -/
theorem indexField_high (lvl : Level) : (indexField lvl).high < 48 := by
  cases lvl <;> decide

section SameLowBits
variable {va va' : Word} (hva : va'.extractLsb' 0 48 = va.extractLsb' 0 48)
include hva

theorem select_eq_of_low_bits {r : BitRange} (hr : r.high < 48) : select va' r = select va r :=
  select_congr fun _ _ hi => getLsbD_eq_of_extractLsb'_eq hva (Nat.zero_le _) (by omega)

/-- R80: the entry address is a function of bits 47:0. -/
theorem entryAddr_eq_of_low_bits (lvl : Level) (base : Word) : entryAddr lvl base va' = entryAddr lvl base va := by
  simp only [entryAddr, index, select_eq_of_low_bits hva (indexField_high lvl)]

theorem pageAddr4k_eq_of_low_bits (e : Word) : pageAddr4k e va' = pageAddr4k e va := by
  simp only [pageAddr4k, select_eq_of_low_bits hva (r := offset4k) (by decide)]

theorem pageAddr1g_eq_of_low_bits (e : Word) : pageAddr1g e va' = pageAddr1g e va := by
  simp only [pageAddr1g, select_eq_of_low_bits hva (r := offset1g) (by decide)]

theorem pageAddr2m_eq_of_low_bits (e : Word) : pageAddr2m e va' = pageAddr2m e va := by
  simp only [pageAddr2m, select_eq_of_low_bits hva (r := offset2m) (by decide)]

end SameLowBits

section SameWalk
variable {k : Walk} {va' : Word} (hva : va'.extractLsb' 0 48 = k.va.extractLsb' 0 48)
include hva

/-- An entry has the same effect on both walks. -/
theorem entryEffect_withVa (c : Config) (e : Word) :
    entryEffect c { k with va := va' } e = (entryEffect c k e).withVa va' := by
  unfold entryEffect
  cases classify k.wp.level e
  case pdptePg1g => simp [effectPdptePg1g, finish, WalkState.withVa, pageAddr1g_eq_of_low_bits hva]
  case ptePg4k => simp [effectPtePg4k, finish, WalkState.withVa, pageAddr4k_eq_of_low_bits hva]
  case pdePs1 =>
    simp only [effectPdePs1]
    cases c.pdPsPolicy
    case map2m => simp [finish, WalkState.withVa, pageAddr2m_eq_of_low_bits hva]
    all_goals rfl
  all_goals rfl

/-- The walk step of both walks makes the same read, with the same event and the same effect. -/
theorem stepWalk_withVa (s : State) :
    stepWalk { k with va := va' } s = ((stepWalk k s).1.withVa va', (stepWalk k s).2) := by
  have haddr : walkAddr { k with va := va' } = walkAddr k := entryAddr_eq_of_low_bits hva k.wp.level k.wp.base
  refine Prod.ext ?_ (by rw [stepWalk_snd, stepWalk_snd, haddr])
  rw [stepWalk_fst, stepWalk_fst, haddr]
  cases (memRead s.cfg s.reader (walkAddr k)).1 with
  | fault i => rfl
  | ok e => exact entryEffect_withVa hva s.cfg e

theorem iterateWalk_withVa (n : Nat) (s : State) :
    iterateWalk n { k with va := va' } s = ((iterateWalk n k s).1.withVa va', (iterateWalk n k s).2) := by
  induction n generalizing k s with
  | zero => rfl
  | succ n ih =>
    simp only [iterateWalk, stepWalk_withVa hva]
    cases hstep : stepWalk k s with
    | mk ws s' =>
      cases ws with
      | walking k' =>
        obtain ⟨e, -, -, hk'⟩ := answerEffect_walking (congrArg Prod.fst hstep)
        have hva' : va'.extractLsb' 0 48 = k'.va.extractLsb' 0 48 := by rw [hk']; exact hva
        exact ih hva' s'
      | done r nr => rfl
      | idle => rfl

end SameWalk

/-- Settles O51: bits of the table base outside 51:12 are not in the frame base the walk starts from, and the walk's outcome
does not hold the virtual address, whose bits 47:0 are all it looks at. -/
theorem translateIgnoresUnusedBits : Obligations.TranslateIgnoresUnusedBits := by
  intro s tb tb' va va' htb hva
  have hstart : startWalk s.nWalks tb' va' = { startWalk s.nWalks tb va with va := va' } := by
    simp only [startWalk, frameBase_congr htb]
  have hwalk := iterateWalk_withVa (k := startWalk s.nWalks tb va) hva 4 { s with nWalks := s.nWalks + 1 }
  rw [← hstart] at hwalk
  simp only [exec, execTranslate, hwalk]
  cases iterateWalk 4 (startWalk s.nWalks tb va) { s with nWalks := s.nWalks + 1 } with
  | mk ws s' => cases ws <;> rfl

end Sys2Proof.Machine
end

section
/-! The moves without a read, the state after reset, and the codes of the response port. -/

namespace Sys2Proof.Machine

/-- Settles O31: the walk starts at the frame base of the table base, with no read made. -/
theorem requestStartsTheWalk : Obligations.RequestStartsTheWalk := by
  intro s w tb va rest hagenda hw
  rw [step_request hagenda hw, startWalk, frameBase_eq_and]
  rfl

/-- Settles O32: the response is `step_respond`, written out field by field. -/
theorem responseDeliversAndFrees : Obligations.ResponseDeliversAndFrees :=
  fun _ _ _ _ _ hagenda hw => step_respond hagenda hw

/-- Settles O33: nothing happens with no move to come. -/
theorem nothingHappensWithoutAMove : Obligations.NothingHappensWithoutAMove := fun _ => step_nil

/-- Settles O34: the machine of any size after reset. -/
theorem resetIsIdle : Obligations.ResetIsIdle := by
  refine ⟨fun n c w hw => ?_, fun n c => ⟨rfl, rfl, rfl, fun a => rfl⟩, rfl⟩
  exact List.getElem?_replicate_of_lt hw

/-- Every walker after reset is Idle. -/
theorem eq_idle_of_mem_resetWith {n : Nat} {c : Config} {ws : WalkState} (h : ws ∈ (State.resetWith n c).walkers) :
    ws = .idle :=
  List.eq_of_mem_replicate h

/-- R33: with a walker at all, the state after reset is safe. -/
theorem safeState_resetWith {n : Nat} (c : Config) (hn : 1 ≤ n) : SafeState (State.resetWith n c) := by
  refine ⟨?_, fun ws hws => ?_, by simp [State.resetWith], wf_nil⟩
  · rw [State.resetWith, ne_eq, List.replicate_eq_nil_iff]
    omega
  · rw [eq_idle_of_mem_resetWith hws]
    rfl

/-- R33: the state after reset holds no fault information. -/
theorem typedState_resetWith (n : Nat) (c : Config) : TypedState (State.resetWith n c) := by
  refine ⟨fun ws hws => ?_, by simp [State.resetWith], by simp [State.resetWith], by simp [State.resetWith]⟩
  rw [eq_idle_of_mem_resetWith hws]
  rfl

/-- Settles O40: reset is the base case of both invariants. -/
theorem resetIsSafe : Obligations.ResetIsSafe :=
  fun n c hn => ⟨safeState_resetWith c hn, typedState_resetWith n c⟩

/-- R121: the ordinal determines the level. -/
theorem ordinal_injective : Function.Injective ordinal
  | .pml4, .pml4, _ => rfl
  | .pdpt, .pdpt, _ => rfl
  | .pd, .pd, _ => rfl
  | .pt, .pt, _ => rfl

/-- R184: each signal is present for its tags only. -/
theorem signals_present_iff (r : WalkResult) : ((addressSignal r).isSome ↔ tagCode r = 0)
    ∧ ((levelCode r).isSome ↔ tagCode r = 1 ∨ tagCode r = 2) ∧ ((infoSignal r).isSome ↔ tagCode r = 3) := by
  cases r with
  | ok pa => simp [addressSignal, levelCode, infoSignal, tagCode]
  | err e => cases e <;> simp [addressSignal, levelCode, infoSignal, tagCode]

/-- R184: the tag says which result it is, and the signal that is present then is its content. -/
theorem result_eq_of_signals_eq {r q : WalkResult} (htag : tagCode r = tagCode q) (hlevel : levelCode r = levelCode q)
    (haddress : addressSignal r = addressSignal q) (hinfo : infoSignal r = infoSignal q) : r = q := by
  rcases r with pa | ⟨l⟩ | ⟨l⟩ | ⟨i⟩ <;> rcases q with pa' | ⟨l'⟩ | ⟨l'⟩ | ⟨i'⟩
  case ok.ok => cases haddress; rfl
  case err.accessFault.err.accessFault => cases hinfo; rfl
  case err.notPresent.err.notPresent => rw [ordinal_injective (Option.some.inj hlevel)]
  case err.unexpectedHugePage.err.unexpectedHugePage => rw [ordinal_injective (Option.some.inj hlevel)]
  all_goals cases htag

/-- Settles O54: the codes are those of R184 by their definition, and they determine the result. -/
theorem responseSignalsDetermineTheResult : Obligations.ResponseSignalsDetermineTheResult :=
  ⟨fun _ _ _ => ⟨rfl, rfl, rfl, rfl⟩, fun _ => rfl, rfl, rfl, rfl, rfl, fun _ _ => ⟨rfl, rfl⟩,
    fun _ _ => result_eq_of_signals_eq, signals_present_iff⟩

end Sys2Proof.Machine
end

section
/-! Words and runs of bytes (R44, R48): a word is its eight bytes, what is stored over an address range is what is read from
it, and eight bytes of an aligned address are at eight addresses that do not wrap. -/

namespace Sys2Proof.Machine

/-- R48: bit `i` of the word is bit `i % 8` of byte `i / 8`. -/
theorem getLsbD_wordOfBytes (bs : List Byte) {i : Nat} (hi : i < 64) :
    (wordOfBytes bs).getLsbD i = (bs.getD (i / 8) 0).getLsbD (i % 8) := by
  induction bs generalizing i with
  | nil => simp [wordOfBytes]
  | cons b bs ih =>
    rw [wordOfBytes, BitVec.getLsbD_or, BitVec.getLsbD_setWidth, BitVec.getLsbD_shiftLeft]
    by_cases hlow : i < 8
    · simp [hlow, hi, Nat.div_eq_of_lt, Nat.mod_eq_of_lt]
    · have hdiv : i / 8 = (i - 8) / 8 + 1 := by omega
      have hmod : i % 8 = (i - 8) % 8 := by omega
      simp [hlow, hi, ih (show i - 8 < 64 by omega), hdiv, hmod, BitVec.getLsbD_of_ge b i (by omega)]

@[simp] theorem length_bytesOfWord (v : Word) : (bytesOfWord v).length = 8 := rfl

theorem getElem_bytesOfWord (v : Word) {i : Nat} (hi : i < 8) : (bytesOfWord v)[i] = byteOfWord v i := by
  have hmap : bytesOfWord v = (List.range 8).map (byteOfWord v) := rfl
  simp [hmap]

/-- R48: a word is the word of its bytes. -/
@[simp] theorem wordOfBytes_bytesOfWord (v : Word) : wordOfBytes (bytesOfWord v) = v := by
  apply BitVec.eq_of_getLsbD_eq
  intro i hi
  have hbyte : i / 8 < 8 := by omega
  rw [getLsbD_wordOfBytes _ hi, List.getD_eq_getElem _ _ hbyte, getElem_bytesOfWord v hbyte, byteOfWord,
    BitVec.getLsbD_extractLsb', Nat.div_add_mod]
  simp [Nat.mod_lt]

/-- Going on by `i` from the next address is going on by `i + 1`. -/
theorem add_one_add_ofNat (a : Word) (i : Nat) : a + 1 + BitVec.ofNat 64 i = a + BitVec.ofNat 64 (i + 1) := by
  rw [Nat.add_comm i 1, BitVec.ofNat_add, BitVec.add_assoc]
  rfl

/-- The addresses of a run of bytes do not meet before they have gone round. -/
theorem toNat_add_ofNat_ne (a : Word) {i j : Nat} (hij : i < j) (hj : j < 2 ^ 64) :
    (a + BitVec.ofNat 64 i).toNat ≠ (a + BitVec.ofNat 64 j).toNat := by
  simp only [BitVec.toNat_add, BitVec.toNat_ofNat]
  omega

/-- R49: an aligned address is a multiple of 8, so that its eight bytes do not wrap. -/
theorem toNat_add_of_aligned {a : Word} (haligned : a.extractLsb' 0 3 = 0) {i : Nat} (hi : i < 8) :
    (a + BitVec.ofNat 64 i).toNat = a.toNat + i := by
  have hmod : a.toNat % 8 = 0 := by simpa using congrArg BitVec.toNat haligned
  simp only [BitVec.toNat_add, BitVec.toNat_ofNat]
  omega

/-- Bytes that are listed one by one are read together. -/
theorem readBytes_eq_some {m : Memory} {bs : List Byte} {a : Word}
    (h : ∀ i (hi : i < bs.length), readByte m (a + BitVec.ofNat 64 i).toNat = some bs[i]) :
    readBytes m a bs.length = some bs := by
  induction bs generalizing a with
  | nil => rfl
  | cons b bs ih =>
    have hhead : readByte m a.toNat = some b := by simpa using h 0 (Nat.succ_pos _)
    have htail : readBytes m (a + 1) bs.length = some bs :=
      ih fun i hi => by rw [add_one_add_ofNat]; exact h (i + 1) (Nat.succ_lt_succ hi)
    rw [List.length_cons, readBytes, hhead, htail]

/-- One byte that is not listed makes all of them unreadable. -/
theorem readBytes_eq_none {m : Memory} {n i : Nat} {a : Word} (hi : i < n)
    (h : readByte m (a + BitVec.ofNat 64 i).toNat = none) : readBytes m a n = none := by
  induction n generalizing a i with
  | zero => omega
  | succ n ih =>
    cases i with
    | zero =>
      have hhead : readByte m a.toNat = none := by simpa using h
      rw [readBytes, hhead]
    | succ i =>
      rw [← add_one_add_ofNat] at h
      rw [readBytes, ih (Nat.lt_of_succ_lt_succ hi) h]
      cases readByte m a.toNat <;> rfl

/-- Bytes stored together, fewer than go round, read back one by one: a later one does not overwrite an earlier one. -/
theorem readByte_writeBytes_same {bs : List Byte} (hlength : bs.length ≤ 2 ^ 64) (m : Memory) (a : Word) {i : Nat}
    (hi : i < bs.length) : readByte (writeBytes m a bs) (a + BitVec.ofNat 64 i).toNat = some bs[i] := by
  induction bs generalizing m a i with
  | nil => cases hi
  | cons b bs ih =>
    rw [List.length_cons] at hi hlength
    rw [writeBytes]
    cases i with
    | zero =>
      rw [readByte_writeBytes_other]
      · simp
      · intro j hj
        rw [add_one_add_ofNat]
        exact toNat_add_ofNat_ne a (Nat.succ_pos j) (by omega)
    | succ i =>
      rw [← add_one_add_ofNat]
      exact ih (by omega) _ _ (Nat.lt_of_succ_lt_succ hi)

/-- R44, R48: the word at an address is the one whose bytes are listed from there up. -/
theorem readWord_eq_some {m : Memory} {a v : Word}
    (h : ∀ i < 8, readByte m (a + BitVec.ofNat 64 i).toNat = some (byteOfWord v i)) : readWord m a = some v := by
  have hbytes : readBytes m a (bytesOfWord v).length = some (bytesOfWord v) :=
    readBytes_eq_some fun i hi => by rw [getElem_bytesOfWord v hi]; exact h i hi
  rw [length_bytesOfWord] at hbytes
  rw [readWord, hbytes, Option.map_some, wordOfBytes_bytesOfWord]

/-- R46: there is no word where one of its bytes is not listed. -/
theorem readWord_eq_none {m : Memory} {a : Word} {i : Nat} (hi : i < 8)
    (h : readByte m (a + BitVec.ofNat 64 i).toNat = none) : readWord m a = none := by
  rw [readWord, readBytes_eq_none hi h, Option.map_none]

/-- R54: a stored word reads back. -/
@[simp] theorem readWord_writeWord (m : Memory) (a v : Word) : readWord (writeWord m a v) a = some v :=
  readWord_eq_some fun i hi => by
    rw [writeWord, readByte_writeBytes_same (by simp) m a hi, getElem_bytesOfWord v hi]

/-- R54: a store at an aligned address leaves every byte outside its eight as it was. -/
theorem readByte_writeWord_other {a : Word} (haligned : a.extractLsb' 0 3 = 0) (m : Memory) (v : Word) {x : Nat}
    (hx : ∀ i < 8, x ≠ a.toNat + i) : readByte (writeWord m a v) x = readByte m x :=
  readByte_writeBytes_other _ _ _ _ fun i hi => by rw [toNat_add_of_aligned haligned hi]; exact hx i hi

end Sys2Proof.Machine
end

section
/-! The memory reader's one answer (R44, R46, R49), the moves on memory and on the answers to come (R54), and that the block
does not store (R47). -/

namespace Sys2Proof.Machine

variable {s t : State}

/-- R44: an answer decided on is used up by the read that it answers. -/
theorem memRead_given {m : Reader} {r : ReadResult} {ans : List Answer} (c : Config) (a : Word)
    (h : m.answers = .given r :: ans) : memRead c m a = (r, { m with answers := ans }) := by
  simp [memRead, h]

/-- R44, R54: a read that is left to the image, with no answer decided on or with that one, is answered from it. -/
theorem memRead_image {m : Reader} {ans : List Answer} (c : Config) (a : Word)
    (h : m.answers = [] ∧ ans = [] ∨ m.answers = .image :: ans) :
    memRead c m a
      = ((imageAnswer c m a).1, { m with answers := ans, draws := m.draws + (imageAnswer c m a).2 }) := by
  obtain ⟨hnone, rfl⟩ | himage := h
  · simp [memRead, hnone]
  · simp [memRead, himage]

/-- R44: the word of a readable aligned address is answered, and no free value is drawn. -/
theorem imageAnswer_of_readWord {m : Reader} {a v : Word} (c : Config) (haligned : a.extractLsb' 0 3 = 0)
    (hread : readWord m.mem a = some v) : imageAnswer c m a = (.ok v, 0) := by
  simp [imageAnswer, haligned, hread]

/-- R46: an unreadable aligned address is answered with a fault, whose information is a free value of the type. -/
theorem imageAnswer_of_readWord_none {m : Reader} {a : Word} (c : Config) (haligned : a.extractLsb' 0 3 = 0)
    (hread : readWord m.mem a = none) :
    imageAnswer c m a = (.fault (toInfoType c.faultInfos (Config.faultInfo m.draws)), 1) := by
  simp [imageAnswer, haligned, hread]

/-- R49: the answer to a misaligned read draws a free value. -/
theorem imageAnswer_snd_of_misaligned {a : Word} (c : Config) (m : Reader) (hmisaligned : a.extractLsb' 0 3 ≠ 0) :
    (imageAnswer c m a).2 = 1 := by
  rw [imageAnswer, if_neg hmisaligned]

/-- R44: a called `read_u64` completes, with the memory reader's one answer. -/
theorem exec_readU64 (a : Word) (s : State) : exec (.readU64 a) s
    = .next (reply { s with reader := (memRead s.cfg s.reader a).2 } (.read (memRead s.cfg s.reader a).1)) := rfl

/-- R44: a `read_u64` that is left to the image replies what the image gives. -/
theorem exec_readU64_image {ans : List Answer} (a : Word)
    (h : s.reader.answers = [] ∧ ans = [] ∨ s.reader.answers = .image :: ans) :
    exec (.readU64 a) s = .next { s with
      reader := { s.reader with answers := ans, draws := s.reader.draws + (imageAnswer s.cfg s.reader a).2 }
      replies := s.replies ++ [.read (imageAnswer s.cfg s.reader a).1] } := by
  rw [exec_readU64, memRead_image s.cfg a h, reply]

/-- Settles O35: the answer is the one decided on, or the image's: the word of eight listed bytes, a fault where one is not
listed, and a free value at a misaligned address. -/
theorem readU64AnswersOnce : Obligations.ReadU64AnswersOnce := by
  intro s a
  refine ⟨fun r ans hgiven => ?_, fun ans himage haligned => ⟨fun v hbytes => ?_, ?_⟩, fun ans himage hmisaligned => ?_⟩
  · rw [exec_readU64, memRead_given s.cfg a hgiven, reply]
  · have hword : readWord s.reader.mem a = some v :=
      readWord_eq_some fun i hi => by rw [toNat_add_of_aligned haligned hi]; exact hbytes i hi
    rw [exec_readU64_image a himage, imageAnswer_of_readWord s.cfg haligned hword, Nat.add_zero]
  · rintro ⟨i, hi, hbyte⟩
    have hword : readWord s.reader.mem a = none :=
      readWord_eq_none hi (by rw [toNat_add_of_aligned haligned hi]; exact hbyte)
    refine ⟨_, infoInType_toInfoType s.cfg.faultInfos (Config.faultInfo s.reader.draws), ?_⟩
    rw [exec_readU64_image a himage, imageAnswer_of_readWord_none s.cfg haligned hword]
  · refine ⟨_, imageAnswer_inType s.cfg s.reader a, ?_⟩
    rw [exec_readU64_image a himage, imageAnswer_snd_of_misaligned s.cfg s.reader hmisaligned]

/-- A step whose next move is a call is the called operation. -/
theorem step_call {i : Instr} {rest : List Move} (hagenda : s.agenda = .call i :: rest) (hi : i.isOperation = true) :
    step s = exec i { s with agenda := rest } := by
  simp [step, hagenda, hi]

/-- R54: a store by another writer goes through. -/
theorem step_store {a v : Word} {rest : List Move} (hagenda : s.agenda = .store a v :: rest) :
    step s = .next (setMem { s with agenda := rest } (writeWord s.reader.mem a v)) := by
  simp [step, hagenda, storeMove]

/-- R54: a byte stored by another writer goes through. -/
theorem step_poke {a : Word} {b : Byte} {rest : List Move} (hagenda : s.agenda = .poke a b :: rest) :
    step s = .next (setMem { s with agenda := rest } (writeByte s.reader.mem a.toNat b)) := by
  simp [step, hagenda, pokeMove]

/-- R46: an unmapping by the memory reader goes through. -/
theorem step_unmap {a : Word} {rest : List Move} (hagenda : s.agenda = .unmap a :: rest) :
    step s = .next (setMem { s with agenda := rest } (eraseByte s.reader.mem a.toNat)) := by
  simp [step, hagenda, unmapMove]

/-- A step whose next move decides on an answer is that move. -/
theorem step_answer {x : Answer} {rest : List Move} (hagenda : s.agenda = .answer x :: rest) :
    step s = answerMove x { s with agenda := rest } := by
  simp [step, hagenda]

/-- R44: with no answer decided on, the step that reads a readable aligned address replies its word. -/
theorem step_readU64_image {a v : Word} {rest : List Move} (hagenda : s.agenda = .call (.readU64 a) :: rest)
    (hanswers : s.reader.answers = []) (haligned : a.extractLsb' 0 3 = 0) (hread : readWord s.reader.mem a = some v) :
    step s = .next (reply { s with agenda := rest } (.read (.ok v))) := by
  rw [step_call hagenda rfl, exec_readU64]
  simp only [memRead_of_readWord s.cfg hanswers haligned hread]

/-- Settles O36: the store makes the word readable at its address, and the read right after it is answered from the image. -/
theorem storeIsSeenByTheNextRead : Obligations.StoreIsSeenByTheNextRead := by
  intro s a v rest haligned hanswers hagenda
  have hread := step_readU64_image (s := setMem { s with agenda := .call (.readU64 a) :: rest } (writeWord s.reader.mem a v))
    rfl hanswers haligned (readWord_writeWord s.reader.mem a v)
  exact ⟨_, (run_succ_next 1 (step_store hagenda)).trans (run_succ_next 0 hread), rfl, rfl, rfl, rfl,
    fun x hx => readByte_writeWord_other haligned s.reader.mem v hx⟩

/-- Settles O37: a poke lists the byte and an unmapping takes it off the list, and both leave the other bytes. -/
theorem byteMovesChangeOneByte : Obligations.ByteMovesChangeOneByte := by
  refine fun s a b rest => ⟨fun hagenda => ?_, fun hagenda hwf => ?_⟩
  · exact ⟨_, step_poke hagenda, rfl, readByte_writeByte_same _ _ _, fun x hx => readByte_writeByte_other _ _ hx⟩
  · exact ⟨_, step_unmap hagenda, rfl, readByte_eraseByte_same _ hwf, fun x hx => readByte_eraseByte_other _ hx⟩

/-- R47: an entry class acts on a walk only, and an operation only reads. -/
theorem exec_mem {i : Instr} (h : exec i s = .next t) : t.reader.mem = s.reader.mem := by
  cases hi : i.isOperation with
  | true => exact (execOperation_next hi h).mem
  | false =>
    obtain ⟨ws, rfl⟩ := execEntry_next hi h
    rfl

/-- Settles O38: `exec_mem` for the calls; a walk step makes one read, and the moves that are left do not touch the image. -/
theorem blockNeverStores : Obligations.BlockNeverStores := by
  refine ⟨fun i s t h a => by rw [exec_mem h], fun s t h hstore hpoke hunmap a => ?_⟩
  cases step_next h with
  | walk => rw [setWalker_reader, stepWalk_snd, memRead_mem]
  | call _ _ hexec => rw [exec_mem hexec]
  | store hagenda => exact absurd hagenda (hstore _ _ _)
  | poke hagenda => exact absurd hagenda (hpoke _ _ _)
  | unmap hagenda => exact absurd hagenda (hunmap _ _)
  | nothing | request | respond | answer => rfl

/-- Settles O56: the move asks whether the answer is of the type, and adds it last or is refused. -/
theorem answerMoveDecidesALaterAnswer : Obligations.AnswerMoveDecidesALaterAnswer := by
  refine fun s x rest hagenda => ⟨fun htyped => ?_, fun huntyped => ?_⟩
  · rw [step_answer hagenda, answerMove, if_pos htyped]
  · rw [step_answer hagenda, answerMove, if_neg (ne_true_of_eq_false huntyped)]

end Sys2Proof.Machine
end

section
/-! R54: the data dependency of a walk's reads: each is at the address made from the entry read before it. -/

namespace Sys2Proof.Machine

/-- A read of a walk of `va` and the read before it: that one was answered with a present entry, and this one is over the
entry's frame base. -/
def FollowsEntry (va : Word) (before ev : ReadEvent) : Prop :=
  ∃ e, before.answer = .ok e ∧ e.getLsbD 0 = true ∧ ev.addr = entryAddr ev.level (frameBase e) va

/-- R127, R154: an entry with P clear ends the walk at every level. -/
theorem entryEffect_of_not_present {e : Word} (hpresent : present e = false) (c : Config) (k : Walk) :
    entryEffect c k e = raise k (.notPresent k.wp.level) := by
  unfold entryEffect classify
  rw [hpresent]
  cases k.wp.level <;> rfl

/-- R25: a walk goes on only after an entry with P set. -/
theorem getLsbD_zero_of_entryEffect_walking {c : Config} {k j : Walk} {e : Word}
    (h : entryEffect c k e = .walking j) : e.getLsbD 0 = true := by
  rw [← present_eq]
  by_contra hpresent
  rw [entryEffect_of_not_present (Bool.eq_false_of_not_eq_true hpresent)] at h
  cases h

/-- R25, R140: a walk step that goes on has read an entry with P set, and the walk then stands at its frame base. -/
theorem stepWalk_walking {k j : Walk} {s s' : State} (h : stepWalk k s = (.walking j, s')) :
    ∃ e, (memRead s.cfg s.reader (walkAddr k)).1 = .ok e ∧ e.getLsbD 0 = true ∧ j.wp.base = frameBase e
      ∧ j.va = k.va := by
  have heffect : answerEffect s.cfg k (memRead s.cfg s.reader (walkAddr k)).1 = .walking j := congrArg Prod.fst h
  obtain ⟨e, hread, -, hj⟩ := answerEffect_walking heffect
  rw [hread] at heffect
  exact ⟨e, hread, getLsbD_zero_of_entryEffect_walking heffect, by rw [hj], by rw [hj]⟩

/-- R32: a walk step records its one read. -/
theorem stepWalk_events (k : Walk) (s : State) : (stepWalk k s).2.events
    = s.events ++ [⟨k.id, k.wp.level, walkAddr k, (memRead s.cfg s.reader (walkAddr k)).1⟩] := rfl

/-- R151: the reads of a walk begin at its walk pointer, and each later one follows the entry of the one before it. -/
theorem iterateWalk_events (n : Nat) (k : Walk) (s : State) :
    ∃ evs, (iterateWalk n k s).2.events = s.events ++ evs
      ∧ (∀ ev ∈ evs.head?, ev.level = k.wp.level ∧ ev.addr = walkAddr k) ∧ evs.IsChain (FollowsEntry k.va) := by
  induction n generalizing k s with
  | zero => exact ⟨[], by simp [iterateWalk]⟩
  | succ n ih =>
    have hstep := stepWalk_events k s
    unfold iterateWalk
    split <;> rename_i heq <;> rw [heq] at hstep
    case h_1 j s' =>
      obtain ⟨evs, hevs, hhead, hchain⟩ := ih j s'
      obtain ⟨e, hread, hpresent, hbase, hva⟩ := stepWalk_walking heq
      rw [hva] at hchain
      refine ⟨_ :: evs, by rw [hevs, hstep, List.append_assoc, List.singleton_append], by simp,
        List.isChain_cons.mpr ⟨fun ev hev => ?_, hchain⟩⟩
      obtain ⟨hlevel, haddr⟩ := hhead ev hev
      exact ⟨e, hread, hpresent, by rw [haddr, hlevel, walkAddr, hbase, hva]⟩
    case h_2 | h_3 => exact ⟨[_], by rw [hstep], by simp, List.isChain_singleton _⟩

/-- Settles O47: the reads of the walk from its start, which stands at the PML4 with the table base's frame base. -/
theorem readsFollowTheEntries : Obligations.ReadsFollowTheEntries := by
  intro s t tb va evs h hevents
  obtain ⟨r, n, s', hit, rfl⟩ := execTranslate_next h
  obtain ⟨evs', hevs', hhead, hchain⟩ :=
    iterateWalk_events 4 (startWalk s.nWalks tb va) { s with nWalks := s.nWalks + 1 }
  rw [hit] at hevs'
  obtain rfl : evs' = evs := List.append_cancel_left (hevs'.symm.trans hevents)
  refine ⟨fun ev hev => ?_, fun n ev ev' hev hev' => ?_⟩
  · exact (hhead ev (by rwa [List.head?_eq_getElem?])).2
  · obtain ⟨hn, rfl⟩ := List.getElem?_eq_some_iff.mp hev
    obtain ⟨hn', rfl⟩ := List.getElem?_eq_some_iff.mp hev'
    exact hchain.getElem n hn'

end Sys2Proof.Machine
end

section
/-! The opcode table (R84): the row of a class, `entry & mask = match`, says of the Present and PageSize bits what `classify`
looks at, so that the rows of a level have exactly one class for every entry. -/

namespace Sys2Proof.Machine

/-- R84: under the mask 0x01 an entry shows its Present bit. -/
theorem and_presentMask (e : Word) : e &&& 0x01 = if present e then 0x01 else 0 := by
  rw [present_eq]
  exact BitVec.and_twoPow e 0

/-- R84: under the mask 0x81 an entry shows its Present and its PageSize bit. -/
theorem and_presentPageSizeMask (e : Word) :
    e &&& 0x81 = (if present e then 0x01 else 0) ||| (if pageSize e then 0x80 else 0) := by
  have hmask : (0x81 : Word) = 0x01 ||| BitVec.twoPow 64 7 := by decide
  rw [hmask, BitVec.and_or_distrib_left, and_presentMask, BitVec.and_twoPow, ← pageSize_eq]
  rfl

/-- R84, R127: an entry is in a class exactly where `classify` names the class at the class's level. -/
theorem inClass_iff (d : EntryClass) (e : Word) : inClass d e = true ↔ classify d.level e = d := by
  rw [inClass, decide_eq_true_iff]
  unfold classify
  cases d with
  | pml4eNp | pml4eTbl | pdpteNp | pdeNp | pteNp =>
    rw [classMask, and_presentMask]
    cases present e <;> cases pageSize e <;> decide
  | pdpteTbl | pdptePg1g | pdeTbl | pdePs1 | ptePg4k | ptePs1 =>
    rw [classMask, and_presentPageSizeMask]
    cases present e <;> cases pageSize e <;> decide

/-- R139: every entry is in the class that `classify` names. -/
theorem inClass_classify (lvl : Level) (e : Word) : inClass (classify lvl e) e = true :=
  (inClass_iff _ e).mpr (by rw [classify_level])

/-- Settles O14: `inClass_iff`, with the level fixed. -/
theorem classifyIsTheOpcodeTable : Obligations.ClassifyIsTheOpcodeTable := by
  refine fun lvl e s => ⟨classify lvl e, rfl, fun d => ⟨?_, ?_⟩⟩
  · rintro rfl
    exact ⟨classify_level lvl e, of_decide_eq_true (inClass_classify lvl e)⟩
  · rintro ⟨rfl, hrow⟩
    exact ((inClass_iff d e).mp (decide_eq_true hrow)).symm

end Sys2Proof.Machine
end

section
/-! The decoder and the encoder (R84, R92, R139): eight bytes are a word, a word that is in a class is its own encoding, and
the class of a word is the one its instruction holds. -/

namespace Sys2Proof.Machine

/-- R48: eight bytes are the bytes of their word. -/
theorem bytesOfWord_wordOfBytes {bs : List Byte} (hlength : bs.length = 8) : bytesOfWord (wordOfBytes bs) = bs := by
  refine List.ext_getElem hlength.symm fun n hn hn' => BitVec.eq_of_getLsbD_eq fun i hi => ?_
  have hdiv : (8 * n + i) / 8 = n := by omega
  have hmod : (8 * n + i) % 8 = i := by omega
  rw [getElem_bytesOfWord _ hn, byteOfWord, BitVec.getLsbD_extractLsb', getLsbD_wordOfBytes bs (by omega), hdiv, hmod,
    List.getD_eq_getElem _ _ hn']
  simp [hi]

/-- R83, R139: eight bytes decode at every level, whatever follows them. -/
theorem decode_append {bs : List Byte} (hlength : bs.length = 8) (lvl : Level) (rest : List Byte) :
    decode lvl (bs ++ rest) = .ok (decodeEntry lvl (wordOfBytes bs), rest) := by
  match bs, hlength with
  | [_, _, _, _, _, _, _, _], _ => rfl

/-- R83: fewer than eight bytes are no entry. -/
theorem decode_truncated {bs : List Byte} (hlength : bs.length < 8) (lvl : Level) : decode lvl bs = .error .truncated := by
  unfold decode
  split
  · simp only [List.length_cons] at hlength
    omega
  · rfl

/-- R84: an instruction that holds an entry is that of the class and the entry. -/
theorem eq_ofEntry_of_entry? {i : Instr} {c : EntryClass} {e : Word} (h : i.entry? = some (c, e)) :
    i = Instr.ofEntry c e := by
  cases i with
  | pml4eNp | pml4eTbl | pdpteNp | pdpteTbl | pdptePg1g | pdeNp | pdeTbl | pdePs1 | pteNp | ptePg4k | ptePs1 =>
    cases h
    rfl
  | _ => cases h

/-- R92: an instruction that is no operation is that of a class and an entry. -/
theorem eq_ofEntry_of_not_operation {i : Instr} (hi : i.isOperation = false) : ∃ c e, i = Instr.ofEntry c e := by
  obtain ⟨⟨c, e⟩, hentry⟩ := Option.ne_none_iff_exists'.mp (mt Option.isNone_iff_eq_none.mpr (ne_true_of_eq_false hi))
  exact ⟨c, e, eq_ofEntry_of_entry? hentry⟩

@[simp] theorem entry?_ofEntry (c : EntryClass) (e : Word) : (Instr.ofEntry c e).entry? = some (c, e) := by
  cases c <;> rfl

@[simp] theorem wellFormed_ofEntry (c : EntryClass) (e : Word) : (Instr.ofEntry c e).wellFormed = inClass c e := by
  cases c <;> rfl

/-- R84: an entry of a class has the class's match bits, so that setting them leaves it as it is. -/
theorem encodeEntry_of_inClass {c : EntryClass} {e : Word} (h : inClass c e = true) : encodeEntry c e = e := by
  have hrow : e &&& classMask c = classMatch c := of_decide_eq_true h
  rw [encodeEntry, ← hrow, ← BitVec.and_or_distrib_left, BitVec.or_comm, BitVec.or_not_self, BitVec.and_allOnes]

/-- R92: the encoding of an entry of a class is the entry's own eight bytes, at the class's level. -/
theorem encode_ofEntry {c : EntryClass} {e : Word} (h : inClass c e = true) :
    encode (Instr.ofEntry c e) = some (c.level, bytesOfWord e) := by
  simp only [encode, entry?_ofEntry, encodeEntry_of_inClass h]

/-- R90: an operation has no encoding. -/
theorem encode_operation {i : Instr} (hi : i.isOperation = true) : encode i = none := by
  rw [encode, Option.isNone_iff_eq_none.mp hi]

/-- R84: an entry of a class decodes to the class at the class's level. -/
theorem decodeEntry_of_inClass {c : EntryClass} {e : Word} (h : inClass c e = true) :
    decodeEntry c.level e = Instr.ofEntry c e := by
  rw [decodeEntry, (inClass_iff c e).mp h]

/-- Settles O22: a well-formed entry class is encoded as its entry's own bytes, and these decode to the entry's one class. -/
theorem decodeOfEncode : Obligations.DecodeOfEncode := by
  refine fun i hwf => ⟨encode_operation, fun hi => ?_⟩
  obtain ⟨c, e, rfl⟩ := eq_ofEntry_of_not_operation hi
  rw [wellFormed_ofEntry] at hwf
  refine ⟨c.level, bytesOfWord e, encode_ofEntry hwf, length_bytesOfWord e, fun rest => ?_⟩
  rw [decode_append (length_bytesOfWord e), wordOfBytes_bytesOfWord, decodeEntry_of_inClass hwf]

/-- Settles O23: eight bytes are a word, which is in the class that `classify` names, and the word's bytes are those eight. -/
theorem encodeOfDecode : Obligations.EncodeOfDecode := by
  refine fun lvl bs => ⟨fun hlength => ?_, fun hlength => decode_truncated hlength lvl⟩
  have hclass := inClass_classify lvl (wordOfBytes bs)
  refine ⟨decodeEntry lvl (wordOfBytes bs), ?_, ?_, ?_⟩
  · simpa using decode_append hlength lvl []
  · rw [decodeEntry, wellFormed_ofEntry, hclass]
  · rw [decodeEntry, encode_ofEntry hclass, classify_level, bytesOfWord_wordOfBytes hlength]

/-- Settles O24: each entry's bytes are run through the decoder. -/
theorem sampleEntriesDecode : Obligations.SampleEntriesDecode :=
  ⟨rfl, rfl, rfl, rfl, rfl, rfl⟩

end Sys2Proof.Machine
end

section
/-! The entry address bit by bit (R80), and the call of an operation as a move (R90, R92). -/

namespace Sys2Proof.Machine

/-- R121: every level's index is nine bits of the virtual address, above its offset in the page. -/
theorem indexField_width_and_low (lvl : Level) : (indexField lvl).width = 9 ∧ 12 ≤ (indexField lvl).low := by
  cases lvl <;> decide

/-- R80: bits 11:3 of an entry address are the level's slice of the virtual address, whatever the base. -/
theorem getLsbD_entryAddr_slice (lvl : Level) (base va : Word) (i : Nat) : (entryAddr lvl base va).getLsbD i
    = if 3 ≤ i ∧ i ≤ 11 then va.getLsbD (i + ((indexField lvl).low - 3)) else base.getLsbD i := by
  obtain ⟨hwidth, hlow⟩ := indexField_width_and_low lvl
  rw [getLsbD_entryAddr]
  split
  next hslot =>
    have hbit : (indexField lvl).low + (i - 3) = i + ((indexField lvl).low - 3) := by omega
    rw [index, getLsbD_select, hwidth, hbit, decide_eq_true (by omega), Bool.true_and]
  next => rfl

/-- Settles O9: `getLsbD_entryAddr_slice` at the four levels. -/
theorem entryAddressBits : Obligations.EntryAddressBits := fun base va _ =>
  ⟨_, _, _, _, rfl, rfl, rfl, rfl, fun i _ => ⟨getLsbD_entryAddr_slice .pml4 base va i,
    getLsbD_entryAddr_slice .pdpt base va i, getLsbD_entryAddr_slice .pd base va i, getLsbD_entryAddr_slice .pt base va i⟩⟩

/-- R92: an entry class is only ever fetched. -/
theorem step_call_refused {s : State} {i : Instr} {rest : List Move} (hagenda : s.agenda = .call i :: rest)
    (hi : i.isOperation = false) : step s = .refused .notAnOperation := by
  simp [step, hagenda, hi]

/-- Settles O26: `step_call` for an operation and `step_call_refused` for an entry class. -/
theorem stepRunsTheCalledOperation : Obligations.StepRunsTheCalledOperation :=
  fun _ _ _ hagenda => ⟨step_call hagenda, step_call_refused hagenda⟩

end Sys2Proof.Machine
end

section
/-! The codec as called (R100, R101, R104), and its laws (R103, R105). The bits of a value and of the word it goes into decide
an `install`, so the laws are read off `getLsbD_select` and `getLsbD_install`, each bit inside the field or outside it. -/

namespace Sys2Proof.Machine

variable (v v' x y : Word) (r : BitRange)

/-! ## The call -/

theorem bitRange?_of_legal {low high : Nat} (h : low ≤ high ∧ high ≤ 63) : bitRange? low high = some ⟨low, high, h⟩ :=
  dif_pos h

theorem bitRange?_of_illegal {low high : Nat} (h : ¬ (low ≤ high ∧ high ≤ 63)) : bitRange? low high = none :=
  dif_neg h

/-- R100: within the contract `select` answers its word, and only the reply is added. -/
theorem exec_select (s : State) : exec (.select x r.low r.high) s = .next (reply s (.word (select x r))) := by
  simp only [exec, execSelect, bitRange?_of_legal r.legal, answerCall]

/-- R101: within the contract `install` answers its word, and only the reply is added. -/
theorem exec_install (s : State) : exec (.install v x r.low r.high) s = .next (reply s (.word (install v x r))) := by
  simp only [exec, execInstall, bitRange?_of_legal r.legal, answerCall]

/-- R100: `select` as a number. -/
theorem toNat_select : (select x r).toNat = (x.toNat >>> r.low) % 2 ^ r.width := by
  have hwidth : r.width ≤ 64 := by have := low_add_width_le r; omega
  rw [select, BitVec.toNat_setWidth_of_le hwidth, BitVec.extractLsb'_toNat]

/-- R105, law 6. -/
theorem toNat_select_lt : (select x r).toNat < 2 ^ r.width := by
  rw [toNat_select]
  exact Nat.mod_lt _ (Nat.two_pow_pos _)

/-! ## What an `install` depends on -/

/-- R101: every bit outside the field is kept. -/
theorem getLsbD_install_outside {i : Nat} (hi : ¬ (r.low ≤ i ∧ i ≤ r.high)) :
    (install v x r).getLsbD i = x.getLsbD i := by
  rw [getLsbD_install, if_neg hi]

/-- R101: an `install` depends on the value's low bits and the word's bits outside the field only. -/
theorem install_congr {v v' x y : Word} {r : BitRange} (hvalue : ∀ i < r.width, v.getLsbD i = v'.getLsbD i)
    (hword : ∀ i, ¬ (r.low ≤ i ∧ i ≤ r.high) → x.getLsbD i = y.getLsbD i) : install v x r = install v' y r := by
  have hwidth := low_add_width r
  refine BitVec.eq_of_getLsbD_eq fun i _ => ?_
  rw [getLsbD_install, getLsbD_install]
  split
  next hi => exact hvalue (i - r.low) (by omega)
  next hi => exact hword i hi

/-- The low `w` bits of a word, as a word. -/
theorem getLsbD_ofNat_mod_two_pow (w i : Nat) :
    (BitVec.ofNat 64 (v.toNat % 2 ^ w)).getLsbD i = (decide (i < w) && v.getLsbD i) := by
  rw [BitVec.getLsbD_ofNat, Nat.testBit_mod_two_pow, BitVec.testBit_toNat]
  by_cases hi : i < 64
  · simp [hi]
  · simp [BitVec.getLsbD_of_ge v i (by omega)]

/-! ## The laws -/

/-- R105, law 1, as words. -/
theorem select_install_same : select (install v x r) r = BitVec.ofNat 64 (v.toNat % 2 ^ r.width) := by
  have hwidth := low_add_width r
  refine BitVec.eq_of_getLsbD_eq fun i _ => ?_
  rw [getLsbD_select, getLsbD_ofNat_mod_two_pow]
  by_cases hi : i < r.width
  · rw [getLsbD_install, if_pos (by omega), Nat.add_sub_cancel_left]
  · simp [hi]

/-- R105, law 1. -/
theorem toNat_select_install_same : (select (install v x r) r).toNat = v.toNat % 2 ^ r.width := by
  rw [select_install_same, BitVec.toNat_ofNat]
  exact Nat.mod_eq_of_lt ((Nat.mod_le _ _).trans_lt v.isLt)

/-- R105, law 10: a field of one word put into another. -/
theorem getLsbD_install_select (i : Nat) : (install (select x r) y r).getLsbD i
    = if r.low ≤ i ∧ i ≤ r.high then x.getLsbD i else y.getLsbD i := by
  have hwidth := low_add_width r
  rw [getLsbD_install]
  split
  next hi =>
    rw [getLsbD_select, decide_eq_true (by omega), Bool.true_and, Nat.add_sub_cancel' hi.1]
  next => rfl

/-- R103, and R105, law 2. -/
theorem install_select_same : install (select x r) x r = x := by
  refine BitVec.eq_of_getLsbD_eq fun i _ => ?_
  rw [getLsbD_install_select, ite_self]

/-- R105, law 3. -/
theorem install_install_same : install v (install v' x r) r = install v x r :=
  install_congr (fun _ _ => rfl) fun _ hi => getLsbD_install_outside v' x r hi

/-- R105, law 5. -/
theorem install_ofNat_mod_two_pow : install v x r = install (BitVec.ofNat 64 (v.toNat % 2 ^ r.width)) x r := by
  refine install_congr (fun i hi => ?_) fun _ _ => rfl
  rw [getLsbD_ofNat_mod_two_pow, decide_eq_true hi, Bool.true_and]

section Disjoint
variable {r q : BitRange} (hdisjoint : r.high < q.low ∨ q.high < r.low)
include hdisjoint

/-- R105, law 4: a field is not affected by an `install` elsewhere. -/
theorem select_install_of_disjoint : select (install v x r) q = select x q :=
  select_congr fun _ _ _ => getLsbD_install_outside v x r (by omega)

/-- R105, law 4: the order of two installs into disjoint fields does not matter. -/
theorem install_comm_of_disjoint : install v (install v' x q) r = install v' (install v x r) q := by
  refine BitVec.eq_of_getLsbD_eq fun i _ => ?_
  simp only [getLsbD_install]
  by_cases hr : r.low ≤ i ∧ i ≤ r.high
  · have hq : ¬ (q.low ≤ i ∧ i ≤ q.high) := by omega
    rw [if_pos hr, if_neg hq, if_pos hr]
  · rw [if_neg hr, if_neg hr]

end Disjoint

section FullWidth
variable {r : BitRange} (hlow : r.low = 0) (hhigh : r.high = 63)
include hlow hhigh

/-- R105, law 7. -/
theorem select_full_width : select x r = x := by
  refine BitVec.eq_of_getLsbD_eq fun i hi => ?_
  have hwidth := low_add_width r
  rw [getLsbD_select, decide_eq_true (by omega), Bool.true_and, hlow, Nat.zero_add]

/-- R105, law 7. -/
theorem install_full_width : install v x r = v := by
  refine BitVec.eq_of_getLsbD_eq fun i hi => ?_
  rw [getLsbD_install, if_pos (by omega), hlow, Nat.sub_zero]

end FullWidth

/-- The low bits of a value, moved to the field. -/
theorem getLsbD_shifted_value (i : Nat) : (BitVec.ofNat 64 (v.toNat % 2 ^ r.width) <<< r.low).getLsbD i
    = (decide (r.low ≤ i ∧ i ≤ r.high) && v.getLsbD (i - r.low)) := by
  have hwidth := low_add_width r
  have hlegal := r.legal
  rw [BitVec.getLsbD_shiftLeft, getLsbD_ofNat_mod_two_pow]
  by_cases hi : r.low ≤ i ∧ i ≤ r.high
  · rw [decide_eq_true hi, decide_eq_true (show i < 64 by omega), decide_eq_false (show ¬ i < r.low by omega),
      decide_eq_true (show i - r.low < r.width by omega)]
    rfl
  · rw [decide_eq_false hi]
    by_cases hlow : i < r.low
    · simp [hlow]
    · simp [show ¬ i - r.low < r.width by omega]

section ZeroField
variable {x : Word} {r : BitRange} (hzero : ∀ i, r.low ≤ i → i ≤ r.high → x.getLsbD i = false)
include hzero

/-- R105, law 8: into a zero field the shifted value is put by OR. -/
theorem install_eq_or_of_zero_field :
    install v x r = x ||| (BitVec.ofNat 64 (v.toNat % 2 ^ r.width) <<< r.low) := by
  refine BitVec.eq_of_getLsbD_eq fun i _ => ?_
  rw [getLsbD_install, BitVec.getLsbD_or, getLsbD_shifted_value]
  split
  next hi => simp [hi, hzero i hi.1 hi.2]
  next hi => simp [hi]

/-- A word with a zero field has no bit in common with a value moved to the field. -/
theorem and_shifted_value_of_zero_field : x &&& (BitVec.ofNat 64 (v.toNat % 2 ^ r.width) <<< r.low) = 0#64 := by
  refine BitVec.eq_of_getLsbD_eq fun i _ => ?_
  rw [BitVec.getLsbD_and, getLsbD_shifted_value, BitVec.getLsbD_zero]
  by_cases hi : r.low ≤ i ∧ i ≤ r.high
  · rw [hzero i hi.1 hi.2, Bool.false_and]
  · simp [hi]

/-- R105, law 8: into a zero field the shifted value is put by addition, as nothing carries. -/
theorem install_eq_add_of_zero_field :
    install v x r = x + (BitVec.ofNat 64 (v.toNat % 2 ^ r.width) <<< r.low) := by
  rw [install_eq_or_of_zero_field v hzero, BitVec.add_eq_or_of_and_eq_zero _ _ (and_shifted_value_of_zero_field v hzero)]

end ZeroField

/-- R105, law 9: shift the field down, then cut it off. -/
theorem select_eq_select_select {r top rest : BitRange} (htopLow : top.low = r.low) (htopHigh : top.high = 63)
    (hrestLow : rest.low = 0) (hrestHigh : rest.high = r.high - r.low) : select x r = select (select x top) rest := by
  have hr := low_add_width r
  have htop := low_add_width top
  have hrest := low_add_width rest
  have hlegal := r.legal
  have hwidth : rest.width = r.width := by omega
  refine BitVec.eq_of_getLsbD_eq fun i _ => ?_
  rw [getLsbD_select, getLsbD_select, getLsbD_select, hwidth, hrestLow, htopLow, Nat.zero_add]
  by_cases hi : i < r.width
  · rw [decide_eq_true (show i < top.width by omega), Bool.true_and]
  · simp [hi]

/-! ## The statements -/

/-- Settles O1: the call is `exec_select`, the number `toNat_select` and the bits `getLsbD_select`. -/
theorem selectReturnsFieldRightJustified : Obligations.SelectReturnsFieldRightJustified := by
  intro x low high s hlow hhigh
  let r : BitRange := ⟨low, high, hlow, hhigh⟩
  exact ⟨select x r, exec_select x r s, toNat_select x r, fun i _ => getLsbD_select x r i⟩

/-- Settles O2: the call is `exec_install` and the bits `getLsbD_install`. -/
theorem installReplacesOnlyTheField : Obligations.InstallReplacesOnlyTheField := by
  intro v x low high s hlow hhigh
  let r : BitRange := ⟨low, high, hlow, hhigh⟩
  exact ⟨install v x r, exec_install v x r s, fun i _ => getLsbD_install v x r i⟩

/-- Settles O3: outside the contract the caller's bounds are no range. -/
theorem codecRefusesOutsideContract : Obligations.CodecRefusesOutsideContract := by
  intro v x low high s hillegal
  simp only [exec, execSelect, execInstall, bitRange?_of_illegal hillegal, and_self]

/-- Settles O4: both halves of R103. -/
theorem codecRoundTrip : Obligations.CodecRoundTrip :=
  fun x r => ⟨install_select_same x r, fun v _ hi => getLsbD_install_outside v x r hi⟩

/-- Settles O5: the ten laws in the rule's order. -/
theorem codecLaws : Obligations.CodecLaws :=
  ⟨toNat_select_install_same,
    install_select_same,
    install_install_same,
    fun v v' x _ _ hdisjoint =>
      ⟨select_install_of_disjoint v x hdisjoint, install_comm_of_disjoint v v' x hdisjoint⟩,
    install_ofNat_mod_two_pow,
    toNat_select_lt,
    fun v x _ hlow hhigh => ⟨select_full_width x hlow hhigh, install_full_width v x hlow hhigh⟩,
    fun v _ _ hzero => ⟨install_eq_or_of_zero_field v hzero, install_eq_add_of_zero_field v hzero⟩,
    fun x _ _ _ => select_eq_select_select x,
    getLsbD_install_select⟩

end Sys2Proof.Machine
end

section
/-! The addresses of the walk as numbers and as masked shifts (R120 to R126, R141 to R143). Each is an `install` into a field
that is clear of a value that fits it, so it is an OR and a sum. -/

namespace Sys2Proof.Machine

/-! ## A value that fits a clear field -/

section ClearField
variable {v x : Word} {r : BitRange} (hzero : ∀ i, r.low ≤ i → i ≤ r.high → x.getLsbD i = false)
  (hfits : v.toNat < 2 ^ r.width)
include hfits

/-- A value that fits the field is not cut down to it. -/
theorem ofNat_mod_two_pow_of_fits : BitVec.ofNat 64 (v.toNat % 2 ^ r.width) = v := by
  rw [Nat.mod_eq_of_lt hfits, BitVec.ofNat_toNat, BitVec.setWidth_eq]

/-- A value that fits the field loses nothing when it is moved there. -/
theorem toNat_shiftLeft_of_fits : (v <<< r.low).toNat = v.toNat * 2 ^ r.low := by
  have hlt : v.toNat * 2 ^ r.low < 2 ^ 64 := by
    calc v.toNat * 2 ^ r.low < 2 ^ r.width * 2 ^ r.low := Nat.mul_lt_mul_of_pos_right hfits (Nat.two_pow_pos _)
      _ = 2 ^ (r.low + r.width) := by rw [Nat.add_comm, Nat.pow_add]
      _ ≤ 2 ^ 64 := Nat.pow_le_pow_right (by decide) (low_add_width_le r)
  rw [BitVec.toNat_shiftLeft, Nat.shiftLeft_eq, Nat.mod_eq_of_lt hlt]

include hzero

/-- R101: a value that fits a clear field is put there by OR. -/
theorem install_eq_or_of_fits : install v x r = x ||| v <<< r.low := by
  rw [install_eq_or_of_zero_field v hzero, ofNat_mod_two_pow_of_fits hfits]

/-- R101: a value that fits a clear field is put there by addition, and nothing is lost. -/
theorem toNat_install_of_fits : (install v x r).toNat = x.toNat + v.toNat * 2 ^ r.low := by
  have hdisjoint := and_shifted_value_of_zero_field v hzero
  rw [ofNat_mod_two_pow_of_fits hfits] at hdisjoint
  rw [install_eq_or_of_fits hzero hfits, ← BitVec.add_eq_or_of_and_eq_zero _ _ hdisjoint,
    BitVec.toNat_add_of_and_eq_zero hdisjoint, toNat_shiftLeft_of_fits hfits]

end ClearField

/-! ## The fields as masked shifts -/

/-- R100: a field is shifted down and masked. -/
theorem select_eq_shift_and (x : Word) (r : BitRange) :
    select x r = (x >>> r.low) &&& (BitVec.allOnes r.width).setWidth 64 := by
  refine BitVec.eq_of_getLsbD_eq fun i hi => ?_
  rw [getLsbD_select, BitVec.getLsbD_and, BitVec.getLsbD_ushiftRight, BitVec.getLsbD_setWidth, BitVec.getLsbD_allOnes,
    decide_eq_true hi, Bool.true_and, Bool.and_comm]

/-- R121: an index is nine bits. -/
theorem index_eq_shift_and (lvl : Level) (va : Word) : index lvl va = (va >>> (indexField lvl).low) &&& 0x1FF := by
  rw [index, select_eq_shift_and, (indexField_width_and_low lvl).1]
  rfl

/-- R71: a frame number is forty bits from bit 12 up. -/
theorem frameNumber_eq_shift_and (e : Word) : frameNumber e = (e >>> 12) &&& 0xFFFFFFFFFF :=
  select_eq_shift_and e frameField

theorem toNat_frameNumber (e : Word) : (frameNumber e).toNat = e.toNat / 2 ^ 12 % 2 ^ 40 := by
  rw [frameNumber, toNat_select, Nat.shiftRight_eq_div_pow]
  rfl

/-- R120: a frame base is the frame number moved up to bit 12. -/
theorem frameBase_eq_shift (s : Word) : frameBase s = frameNumber s <<< 12 := by
  have hor := install_eq_or_of_fits (x := 0) (fun _ _ _ => BitVec.getLsbD_zero) (toNat_select_lt s frameField)
  exact hor.trans BitVec.zero_or

/-- Settles O6: the mask is `frameBase_eq_and`, the shifted frame `frameBase_eq_shift`. -/
theorem frameBaseKeepsTheFrame : Obligations.FrameBaseKeepsTheFrame := by
  intro src s
  have hshift := frameBase_eq_shift src
  rw [frameNumber_eq_shift_and] at hshift
  refine ⟨?_, (frameBase_eq_and src).symm.trans hshift⟩
  rw [← frameBase_eq_and]
  rfl

/-- Settles O7: `index_eq_shift_and` at the four levels. -/
theorem indexIsTheLevelSlice : Obligations.IndexIsTheLevelSlice := by
  have hexec (lvl : Level) (va : Word) (s : State) : exec (.index lvl va) s
      = .next (reply s (.word ((va >>> (indexField lvl).low) &&& 0x1FF))) := by
    rw [← index_eq_shift_and]
    rfl
  exact fun va s => ⟨hexec .pml4 va s, hexec .pdpt va s, hexec .pd va s, hexec .pt va s⟩

/-! ## Entry addresses over a frame base -/

/-- R121: an index is below 512. -/
theorem toNat_index_lt (lvl : Level) (va : Word) : (index lvl va).toNat < 512 := by
  have hlt := toNat_select_lt va (indexField lvl)
  rwa [(indexField_width_and_low lvl).1] at hlt

section FrameBase
variable {base : Word} (hbase : frameBase base = base)
include hbase

/-- R120: the slot of an entry address is clear in a frame base. -/
theorem slotField_clear (i : Nat) (_ : slotField.low ≤ i) (hi : i ≤ slotField.high) : base.getLsbD i = false :=
  getLsbD_of_frameBase_eq hbase (.inl (Nat.lt_succ_of_le hi))

/-- R122 to R125: the index is put into the slot by OR. -/
theorem entryAddr_eq_or (lvl : Level) (va : Word) : entryAddr lvl base va = base ||| index lvl va <<< 3 :=
  install_eq_or_of_fits (slotField_clear hbase) (toNat_index_lt lvl va)

/-- R126: the index is put into the slot by addition. -/
theorem toNat_entryAddr (lvl : Level) (va : Word) :
    (entryAddr lvl base va).toNat = base.toNat + 8 * (index lvl va).toNat := by
  rw [entryAddr, toNat_install_of_fits (slotField_clear hbase) (toNat_index_lt lvl va), Nat.mul_comm]
  rfl

end FrameBase

/-- Settles O8: `entryAddr_eq_or` at the four levels. -/
theorem entryAddressesPlaceTheIndex : Obligations.EntryAddressesPlaceTheIndex := by
  intro base va s hmask
  have hreply (lvl : Level) : answerCall (.word (entryAddr lvl base va)) s
      = .next (reply s (.word (base ||| (((va >>> (indexField lvl).low) &&& 0x1FF) <<< 3)))) := by
    rw [answerCall_eq, entryAddr_eq_or (by rw [frameBase_eq_and, hmask]), index_eq_shift_and]
  exact ⟨hreply .pml4, hreply .pdpt, hreply .pd, hreply .pt⟩

/-- Words that agree on each bit of a slice have the same slice. -/
theorem extractLsb'_congr {x y : Word} {low width : Nat}
    (h : ∀ i, low ≤ i → i < low + width → x.getLsbD i = y.getLsbD i) :
    x.extractLsb' low width = y.extractLsb' low width := by
  refine BitVec.eq_of_getLsbD_eq fun i hi => ?_
  rw [BitVec.getLsbD_extractLsb', BitVec.getLsbD_extractLsb', h (low + i) (by omega) (by omega)]

/-- R126: an entry address is in the frame of its base. -/
theorem entryAddr_frame (lvl : Level) (base va : Word) :
    (entryAddr lvl base va).extractLsb' 12 40 = base.extractLsb' 12 40 :=
  extractLsb'_congr fun _ hlow _ => getLsbD_install_outside _ base slotField fun hslot => by
    have : _ ≤ 11 := hslot.2
    omega

/-- Settles O10: the alignment and the bound are those of the walk's reads, the rest is that the index fits its slot. -/
theorem entryAddressStaysInItsTable : Obligations.EntryAddressStaysInItsTable := by
  intro lvl base va hbase
  let k : Walk := { va := va, wp := ⟨lvl, base⟩, nreads := 0, id := 0 }
  have hindex := toNat_index_lt lvl va
  have hsum := toNat_entryAddr hbase lvl va
  refine ⟨walkAddr_aligned (k := k) hbase, walkAddr_below (k := k) hbase, entryAddr_frame lvl base va, hsum, by omega,
    fun va' hva' => ?_⟩
  rw [entryAddr, hva', entryAddr]

/-! ## Page addresses -/

/-- R141 to R143: the offset of a page address is that of the virtual address. -/
theorem extractLsb'_install_select {r : BitRange} (hlow : r.low = 0) (va x : Word) :
    (install (select va r) x r).extractLsb' 0 r.width = va.extractLsb' 0 r.width := by
  have hwidth := low_add_width r
  refine extractLsb'_congr fun i _ hi => ?_
  rw [getLsbD_install_select, if_pos (by omega)]

theorem pageAddr4k_offset (e va : Word) : (pageAddr4k e va).extractLsb' 0 12 = va.extractLsb' 0 12 :=
  extractLsb'_install_select rfl va _

theorem pageAddr1g_offset (e va : Word) : (pageAddr1g e va).extractLsb' 0 30 = va.extractLsb' 0 30 :=
  extractLsb'_install_select rfl va _

theorem pageAddr2m_offset (e va : Word) : (pageAddr2m e va).extractLsb' 0 21 = va.extractLsb' 0 21 :=
  extractLsb'_install_select rfl va _

/-- A word that is shifted up by the width of a lowest field is clear there. -/
theorem lowField_clear_of_shiftLeft {r : BitRange} (hlow : r.low = 0) (x : Word) (i : Nat) (_ : r.low ≤ i)
    (hi : i ≤ r.high) : (x <<< r.width).getLsbD i = false := by
  have hwidth := low_add_width r
  simp [show i < r.width by omega]

/-- R142, R143: the page's shifted frame number, reduced modulo 2^64, and the offset in the page. -/
theorem toNat_install_offset {r : BitRange} (hlow : r.low = 0) (e va : Word) :
    (install (select va r) (frameNumber e <<< r.width) r).toNat
      = (e.toNat / 2 ^ 12 % 2 ^ 40) * 2 ^ r.width % 2 ^ 64 + va.toNat % 2 ^ r.width := by
  rw [toNat_install_of_fits (lowField_clear_of_shiftLeft hlow _) (toNat_select_lt va r), toNat_select,
    BitVec.toNat_shiftLeft, toNat_frameNumber, hlow, Nat.shiftLeft_eq, Nat.shiftRight_zero, Nat.pow_zero, Nat.mul_one]

/-- R141: a 4 KiB page address is the frame of the entry and the offset of the virtual address. -/
theorem pageAddr4k_eq_or (e va : Word) : pageAddr4k e va = frameNumber e <<< 12 ||| select va offset4k := by
  have hor := install_eq_or_of_fits (lowField_clear_of_shiftLeft (r := offset4k) rfl (frameNumber e))
    (toNat_select_lt va offset4k)
  rwa [show offset4k.low = 0 from rfl, BitVec.shiftLeft_zero] at hor

/-- R141: the frame of a 4 KiB page address is the entry's. -/
theorem pageAddr4k_frame (e va : Word) : (pageAddr4k e va).extractLsb' 12 40 = e.extractLsb' 12 40 := by
  refine extractLsb'_congr fun i hlow hi => ?_
  have houtside : ¬ (offset4k.low ≤ i ∧ i ≤ offset4k.high) := fun hoffset => by
    have : i ≤ 11 := hoffset.2
    omega
  rw [pageAddr4k, getLsbD_install_outside _ _ _ houtside, ← frameBase_eq_shift, getLsbD_frameBase,
    decide_eq_true (by omega), Bool.true_and]

/-- Settles O11: `pageAddr4k_eq_or`, and the three slices of the address. -/
theorem pageAddress4k : Obligations.PageAddress4k := by
  refine fun e va s => ⟨pageAddr4k e va, rfl, ?_, pageAddr4k_below e va, pageAddr4k_frame e va, pageAddr4k_offset e va⟩
  rw [pageAddr4k_eq_or, frameNumber_eq_shift_and, select_eq_shift_and]
  rfl

/-- Settles O12: `toNat_install_offset` for thirty offset bits, and that thirty-four bits of frame fit above them. -/
theorem pageAddress1g : Obligations.PageAddress1g := by
  intro e va s
  have hnumber := toNat_install_offset (r := offset1g) rfl e va
  refine ⟨pageAddr1g e va, rfl, hnumber, fun hsmall => hnumber.trans ?_⟩
  rw [show offset1g.width = 30 from rfl, Nat.mod_eq_of_lt (a := _ * _) (by omega)]

/-- Settles O13: `toNat_install_offset` for twenty-one offset bits, above which forty bits of frame fit. -/
theorem pageAddress2m : Obligations.PageAddress2m := by
  intro e va s
  refine ⟨pageAddr2m e va, rfl, (toNat_install_offset (r := offset2m) rfl e va).trans ?_⟩
  rw [show offset2m.width = 21 from rfl, Nat.mod_eq_of_lt (a := _ * _) (by omega)]

end Sys2Proof.Machine
end

section
/-! The classes of an entry by its bits (R84, R127) and the walk's outcome by level (R140): one equation per level, and from
these the entry classes as instructions (R128 to R138) and the walk step. -/

namespace Sys2Proof.Machine

variable {s : State} {k : Walk} {c : Config} {e : Word}

/-! ## The class of an entry, level by level -/

/-- R72: at the PML4 bit 7 is not looked at. -/
theorem classify_pml4 (e : Word) : classify .pml4 e = bif e.getLsbD 0 then .pml4eTbl else .pml4eNp := by
  unfold classify
  rw [present_eq]
  cases e.getLsbD 0 <;> rfl

theorem classify_pdpt (e : Word) : classify .pdpt e
    = bif e.getLsbD 0 then bif e.getLsbD 7 then .pdptePg1g else .pdpteTbl else .pdpteNp := by
  unfold classify
  rw [present_eq, pageSize_eq]
  cases e.getLsbD 0 <;> cases e.getLsbD 7 <;> rfl

theorem classify_pd (e : Word) : classify .pd e
    = bif e.getLsbD 0 then bif e.getLsbD 7 then .pdePs1 else .pdeTbl else .pdeNp := by
  unfold classify
  rw [present_eq, pageSize_eq]
  cases e.getLsbD 0 <;> cases e.getLsbD 7 <;> rfl

theorem classify_pt (e : Word) : classify .pt e
    = bif e.getLsbD 0 then bif e.getLsbD 7 then .ptePs1 else .ptePg4k else .pteNp := by
  unfold classify
  rw [present_eq, pageSize_eq]
  cases e.getLsbD 0 <;> cases e.getLsbD 7 <;> rfl

/-- R85: the class depends on bits 0 and 7 only. -/
theorem classify_congr {e e' : Word} (hpresent : e'.getLsbD 0 = e.getLsbD 0) (hpageSize : e'.getLsbD 7 = e.getLsbD 7)
    (lvl : Level) : classify lvl e' = classify lvl e := by
  unfold classify
  rw [present_eq, present_eq, pageSize_eq, pageSize_eq, hpresent, hpageSize]

/-! ## The effect of an entry, level by level -/

/-- R128, R129. -/
theorem entryEffect_pml4 (hlevel : k.wp.level = .pml4) :
    entryEffect c k e = bif e.getLsbD 0 then descend k .pdpt e else raise k (.notPresent .pml4) := by
  unfold entryEffect
  rw [hlevel, classify_pml4]
  cases e.getLsbD 0 <;> rfl

/-- R130 to R132. -/
theorem entryEffect_pdpt (hlevel : k.wp.level = .pdpt) : entryEffect c k e
    = bif e.getLsbD 0 then bif e.getLsbD 7 then finish k (pageAddr1g e k.va) else descend k .pd e
      else raise k (.notPresent .pdpt) := by
  unfold entryEffect
  rw [hlevel, classify_pdpt]
  cases e.getLsbD 0 <;> cases e.getLsbD 7 <;> rfl

/-- R133 to R135. -/
theorem entryEffect_pd (hlevel : k.wp.level = .pd) : entryEffect c k e
    = bif e.getLsbD 0 then bif e.getLsbD 7 then effectPdePs1 c e k else descend k .pt e
      else raise k (.notPresent .pd) := by
  unfold entryEffect
  rw [hlevel, classify_pd]
  cases e.getLsbD 0 <;> cases e.getLsbD 7 <;> rfl

/-- R136 to R138. -/
theorem entryEffect_pt (hlevel : k.wp.level = .pt) : entryEffect c k e
    = bif e.getLsbD 0 then bif e.getLsbD 7 then raise k (.unexpectedHugePage .pt) else finish k (pageAddr4k e k.va)
      else raise k (.notPresent .pt) := by
  unfold entryEffect
  rw [hlevel, classify_pt]
  cases e.getLsbD 0 <;> cases e.getLsbD 7 <;> rfl

/-- R129, R131, R134: a table pointer leads to the next level. -/
theorem entryEffect_table {next : Level} (hpresent : e.getLsbD 0 = true)
    (htable : k.wp.level = .pml4 ∨ e.getLsbD 7 = false) (hnext : nextLevel k.wp.level = some next) :
    entryEffect c k e = descend k next e := by
  cases hlevel : k.wp.level <;> rw [hlevel] at hnext <;> cases hnext
  case pml4 => rw [entryEffect_pml4 hlevel, hpresent, cond_true]
  case pdpt =>
    have hpageSize : e.getLsbD 7 = false := htable.resolve_left (by simp [hlevel])
    rw [entryEffect_pdpt hlevel, hpresent, hpageSize, cond_true, cond_false]
  case pd =>
    have hpageSize : e.getLsbD 7 = false := htable.resolve_left (by simp [hlevel])
    rw [entryEffect_pd hlevel, hpresent, hpageSize, cond_true, cond_false]

theorem effectPdePs1_fault (hpolicy : c.pdPsPolicy = .fault) :
    effectPdePs1 c e k = raise k (.unexpectedHugePage .pd) := by
  rw [effectPdePs1, hpolicy]

theorem effectPdePs1_map2m (hpolicy : c.pdPsPolicy = .map2m) : effectPdePs1 c e k = finish k (pageAddr2m e k.va) := by
  rw [effectPdePs1, hpolicy]

theorem effectPdePs1_ignore (hpolicy : c.pdPsPolicy = .ignore) : effectPdePs1 c e k = descend k .pt e := by
  rw [effectPdePs1, hpolicy]

/-- R144: an entry that ends the walk with success does so with a page address of its level. -/
theorem pageAddr_of_entryEffect_ok {pa : Word} {n : Nat} (h : entryEffect c k e = .done (.ok pa) n) :
    (k.wp.level = .pt ∧ pa = pageAddr4k e k.va) ∨ (k.wp.level = .pdpt ∧ pa = pageAddr1g e k.va)
      ∨ (k.wp.level = .pd ∧ pa = pageAddr2m e k.va) := by
  have hclass := classify_level k.wp.level e
  unfold entryEffect at h
  cases hc : classify k.wp.level e <;> rw [hc] at h hclass
  case ptePg4k => cases h; exact .inl ⟨hclass.symm, rfl⟩
  case pdptePg1g => cases h; exact .inr (.inl ⟨hclass.symm, rfl⟩)
  case pdePs1 =>
    refine .inr (.inr ⟨hclass.symm, ?_⟩)
    cases hpolicy : c.pdPsPolicy with
    | fault => rw [effectPdePs1_fault hpolicy] at h; cases h
    | map2m => rw [effectPdePs1_map2m hpolicy] at h; cases h; rfl
    | ignore => rw [effectPdePs1_ignore hpolicy] at h; cases h
  all_goals cases h

/-- Settles O20: each page address takes its offset from the virtual address. -/
theorem offsetIsCopiedUnchanged : Obligations.OffsetIsCopiedUnchanged := by
  intro c k r pa n h
  cases r with
  | fault info => cases h
  | ok e =>
    obtain ⟨hlevel, rfl⟩ | ⟨hlevel, rfl⟩ | ⟨hlevel, rfl⟩ := pageAddr_of_entryEffect_ok h
    · exact .inl ⟨hlevel, pageAddr4k_offset e k.va⟩
    · exact .inr (.inl ⟨hlevel, pageAddr1g_offset e k.va⟩)
    · exact .inr (.inr ⟨hlevel, pageAddr2m_offset e k.va⟩)

/-! ## Bits that are ignored -/

/-- R71: the frame number is bits 51:12. -/
theorem frameNumber_congr {e e' : Word} (hframe : e'.extractLsb' 12 40 = e.extractLsb' 12 40) :
    frameNumber e' = frameNumber e :=
  select_congr fun _ hlow hhigh => getLsbD_eq_of_extractLsb'_eq hframe hlow (Nat.lt_succ_of_le hhigh)

/-- R85, R145: the effect of an entry depends on its bits 0, 7 and 51:12. -/
theorem entryEffect_congr {e e' : Word} (hpresent : e'.getLsbD 0 = e.getLsbD 0)
    (hpageSize : e'.getLsbD 7 = e.getLsbD 7) (hframe : e'.extractLsb' 12 40 = e.extractLsb' 12 40) (c : Config) (k : Walk) :
    entryEffect c k e' = entryEffect c k e := by
  have hnumber := frameNumber_congr hframe
  have hdescend (next : Level) : descend k next e' = descend k next e := by
    rw [descend, frameBase_congr hframe, descend]
  unfold entryEffect
  rw [classify_congr hpresent hpageSize]
  cases classify k.wp.level e
  case pml4eTbl | pdpteTbl | pdeTbl => exact hdescend _
  case pdptePg1g => simp only [effectPdptePg1g, pageAddr1g, hnumber]
  case ptePg4k => simp only [effectPtePg4k, pageAddr4k, hnumber]
  case pdePs1 => simp only [effectPdePs1, pageAddr2m, hnumber, hdescend]
  all_goals rfl

/-- Settles O21: `entryEffect_congr` for the entry and `entryEffect_withVa` for the virtual address. -/
theorem ignoredBitsHaveNoEffect : Obligations.IgnoredBitsHaveNoEffect := by
  rintro c k va' e e' ⟨hpresent, hpageSize, hframe⟩ hva
  have heffect : entryEffect c { k with va := va' } e' = (entryEffect c k e).withVa va' := by
    rw [entryEffect_congr hpresent hpageSize hframe, entryEffect_withVa hva]
  refine ⟨fun r n h => ?_, fun j h => ?_, entryAddr_eq_of_low_bits hva k.wp.level k.wp.base⟩ <;> rw [heffect, h] <;> rfl

/-! ## The entry classes as instructions -/

/-- R128, R130, R133, R136: P is looked at first, at every level. -/
theorem decodeEntry_of_not_present (hpresent : e.getLsbD 0 = false) : decodeEntry .pml4 e = .pml4eNp e
    ∧ decodeEntry .pdpt e = .pdpteNp e ∧ decodeEntry .pd e = .pdeNp e ∧ decodeEntry .pt e = .pteNp e := by
  simp only [decodeEntry, classify_pml4, classify_pdpt, classify_pd, classify_pt, hpresent, cond_false, Instr.ofEntry,
    and_self]

/-- Settles O15: the effect is by the walk's level, and the decoding by bit 0. -/
theorem notPresentClassesNameTheirLevel : Obligations.NotPresentClassesNameTheirLevel :=
  fun _ _ _ hk => ⟨onWalk_walking _ hk, onWalk_walking _ hk, onWalk_walking _ hk, onWalk_walking _ hk,
    decodeEntry_of_not_present⟩

/-- R129, R131, R134: an entry class whose effect is a descent. -/
theorem onWalk_descend {lvl next : Level} (hk : s.walkers[s.active]? = some (.walking k)) (e : Word)
    (hlevel : k.wp.level = lvl) : onWalk lvl (fun j => descend j next e) s = .next { s with
      walkers := s.walkers.set s.active
        (.walking { va := k.va, wp := ⟨next, e &&& 0x000FFFFFFFFFF000⟩, nreads := k.nreads + 1, id := k.id }) } := by
  rw [onWalk_walking _ hk hlevel, descend, frameBase_eq_and, setWalker]

/-- Settles O16: `onWalk_descend` at the three levels that have a next one, and the decoding by bits 0 and 7. -/
theorem tableClassesDescend : Obligations.TableClassesDescend := by
  refine fun e k s hk => ⟨onWalk_descend hk e, onWalk_descend hk e, onWalk_descend hk e, fun hpresent => ?_,
    fun hpresent hpageSize => ?_⟩
  · rw [decodeEntry, classify_pml4, hpresent]
    rfl
  · simp only [decodeEntry, classify_pdpt, classify_pd, hpresent, hpageSize]
    exact ⟨rfl, rfl⟩

/-- Settles O17: the effect is `finish`, and the decoding by bits 0 and 7. -/
theorem hugePdpteEndsTheWalk : Obligations.HugePdpteEndsTheWalk := by
  refine fun e k s hk hlevel => ⟨onWalk_walking _ hk hlevel, fun hpresent hpageSize => ?_⟩
  rw [decodeEntry, classify_pdpt, hpresent, hpageSize]
  rfl

/-- R135: the class PDE.PS1 has its effect on the active walk. -/
theorem exec_pdePs1 (hk : s.walkers[s.active]? = some (.walking k)) (hlevel : k.wp.level = .pd) (e : Word) :
    exec (.pdePs1 e) s = .next (setWalker s s.active (effectPdePs1 s.cfg e k)) :=
  onWalk_walking _ hk hlevel

/-- Settles O18: `exec_pdePs1`, with the effect under each policy. -/
theorem hugePdeFollowsThePolicy : Obligations.HugePdeFollowsThePolicy := by
  refine fun e k s hk hlevel => ⟨fun hpolicy => ?_, fun hpolicy => ?_, fun hpolicy => ?_, fun hpresent hpageSize => ?_⟩
  · rw [exec_pdePs1 hk hlevel, effectPdePs1_fault hpolicy]
    rfl
  · rw [exec_pdePs1 hk hlevel, effectPdePs1_map2m hpolicy]
    rfl
  · rw [exec_pdePs1 hk hlevel, effectPdePs1_ignore hpolicy, descend, frameBase_eq_and]
    rfl
  · rw [decodeEntry, classify_pd, hpresent, hpageSize]
    rfl

/-- Settles O19: the effects are `finish` and `raise`, and the decoding is by bits 0 and 7. -/
theorem presentPteEndsTheWalk : Obligations.PresentPteEndsTheWalk := by
  refine fun e k s hk hlevel => ⟨onWalk_walking _ hk hlevel, onWalk_walking _ hk hlevel, fun hpresent hpageSize => ?_,
    fun hpresent hpageSize => ?_⟩
  · rw [decodeEntry, classify_pt, hpresent, hpageSize]
    rfl
  · rw [decodeEntry, classify_pt, hpresent, hpageSize]
    rfl

/-- R140: an entry class is refused where the active walker is in no walk. -/
theorem onWalk_refused (hresting : s.walkers[s.active]? = some .idle ∨ ∃ r n, s.walkers[s.active]? = some (.done r n))
    (lvl : Level) (effect : Walk → WalkState) : onWalk lvl effect s = .refused .noWalkInProgress := by
  obtain hidle | ⟨r, n, hdone⟩ := hresting
  · simp [onWalk, hidle]
  · simp [onWalk, hdone]

/-- R140: a walk step is refused where its walker is in no walk. -/
theorem step_walk_refused {w : Nat} {rest : List Move} (hagenda : s.agenda = .walk w :: rest)
    (hresting : s.walkers[w]? = some .idle ∨ ∃ r n, s.walkers[w]? = some (.done r n)) :
    step s = .refused .noWalkInProgress := by
  obtain hidle | ⟨r, n, hdone⟩ := hresting
  · simp [step, hagenda, fetch, hidle]
  · simp [step, hagenda, fetch, hdone]

/-- Settles O30: `step_walk_refused` for the move, and `onWalk_refused` for every entry class. -/
theorem noStepFromIdleOrDone : Obligations.NoStepFromIdleOrDone := by
  refine fun s w hresting => ⟨fun rest hagenda => step_walk_refused hagenda hresting, fun i hi hactive => ?_⟩
  subst hactive
  cases i with
  | pml4eNp | pml4eTbl | pdpteNp | pdpteTbl | pdptePg1g | pdeNp | pdeTbl | pdePs1 | pteNp | ptePg4k | ptePs1 =>
    exact onWalk_refused hresting _ _
  | _ => cases hi

/-! ## The walk step -/

/-- Settles O28: `step_walk`, which holds wherever a walk is in progress. -/
theorem machineStepIsWalkStep : Obligations.MachineStepIsWalkStep :=
  fun _ _ _ _ hagenda hw => step_walk hagenda hw

/-- R140: a walk step whose read is answered with an entry runs the instruction that the entry decodes to. -/
theorem step_walk_entry {w : Nat} {rest : List Move} {d : Reader} (hagenda : s.agenda = .walk w :: rest)
    (hw : s.walkers[w]? = some (.walking k)) (hread : memRead s.cfg s.reader (walkAddr k) = (.ok e, d)) :
    step s = exec (decodeEntry k.wp.level e) { s with
      agenda := rest, active := w, reader := d
      events := s.events ++ [⟨k.id, k.wp.level, walkAddr k, .ok e⟩] } := by
  simp [step, hagenda, fetch, hw, readEntry, hread]

/-- R83, R139: bytes that decode with none left over are an entry's, and the instruction is the one of their word. -/
theorem eq_decodeEntry_of_decode {lvl : Level} {bs : List Byte} {i : Instr} (h : decode lvl bs = .ok (i, [])) :
    i = decodeEntry lvl (wordOfBytes bs) := by
  unfold decode at h
  split at h
  · cases h; rfl
  · cases h

/-- Settles O25: `step_walk_entry`, with the answer from the image or the one decided on. -/
theorem stepRunsTheDecodedEntry : Obligations.StepRunsTheDecodedEntry := by
  refine fun s w rest k hagenda hw => ⟨fun ans bs i himage hbase hbytes hdecode => ?_, fun ans e hgiven => ?_⟩
  · have hword : readWord s.reader.mem (walkAddr k) = some (wordOfBytes bs) := by rw [readWord, hbytes, Option.map_some]
    have hread := memRead_image s.cfg (walkAddr k) himage
    rw [imageAnswer_of_readWord s.cfg (walkAddr_aligned hbase) hword] at hread
    rw [step_walk_entry hagenda hw hread, ← eq_decodeEntry_of_decode hdecode, Nat.add_zero]
  · exact step_walk_entry hagenda hw (memRead_given s.cfg (walkAddr k) hgiven)

/-- R24: what a called `walk_step` asks of its operand. -/
theorem legalWalk_iff (k : Walk) : legalWalk k = true ↔ frameBase k.wp.base = k.wp.base ∧ k.nreads ≤ 3 := by
  rw [legalWalk, Bool.and_eq_true, decide_eq_true_iff, decide_eq_true_iff]

/-- R140: a called `walk_step` on a state of a walk in progress completes with that walk's one step. -/
theorem exec_walkStep (hlegal : frameBase k.wp.base = k.wp.base ∧ k.nreads ≤ 3) (s : State) :
    exec (.walkStep k) s = .next (reply (stepWalk k s).2 (.walkState (stepWalk k s).1)) :=
  if_pos ((legalWalk_iff k).mpr hlegal)

theorem exec_walkStep_refused (hillegal : ¬ (frameBase k.wp.base = k.wp.base ∧ k.nreads ≤ 3)) (s : State) :
    exec (.walkStep k) s = .refused .notAWalkState :=
  if_neg fun hlegal => hillegal ((legalWalk_iff k).mp hlegal)

/-- Settles O29: the outcome is the effect of the one read's answer, which `entryEffect_of_not_present`, `entryEffect_table`
and the equations of the last three levels give case by case. -/
theorem walkStepFollowsItsPseudocode : Obligations.WalkStepFollowsItsPseudocode := by
  refine fun k s => ⟨fun hillegal => exec_walkStep_refused hillegal s, fun hbase hreads => ?_⟩
  cases hread : memRead s.cfg s.reader (walkAddr k) with
  | mk r d =>
  refine ⟨r, d, answerEffect s.cfg k r, hread, ?_, ?_, ?_⟩
  · rw [exec_walkStep ⟨hbase, hreads⟩, stepWalk_fst, stepWalk_snd, hread]
    rfl
  · rintro info rfl
    rfl
  · rintro e rfl
    refine ⟨fun hpresent => ?_, fun hpresent htable l hnext => entryEffect_table hpresent htable hnext,
      fun hpresent hpageSize hlevel => ?_, fun hpresent hpageSize hlevel => ?_,
      fun hpresent hpageSize hlevel => ?_, fun hpresent hpageSize hlevel => ?_⟩
    · exact entryEffect_of_not_present ((present_eq e).trans hpresent) s.cfg k
    · rw [answerEffect, entryEffect_pdpt hlevel, hpresent, hpageSize]
      rfl
    · rw [answerEffect, entryEffect_pd hlevel, hpresent, hpageSize, cond_true, cond_true]
      exact ⟨effectPdePs1_fault, effectPdePs1_map2m, effectPdePs1_ignore⟩
    · rw [answerEffect, entryEffect_pt hlevel, hpresent, hpageSize]
      rfl
    · rw [answerEffect, entryEffect_pt hlevel, hpresent, hpageSize]
      rfl

end Sys2Proof.Machine
end

section
/-! R158, R27: a finished walk until its response. -/

namespace Sys2Proof.Machine

/-- Settles O43, by the cases of a step: a request and a walk step are not moves of a walker that is Done, so the walk state
they give is another's; the walker's own response takes the result it holds. -/
theorem doneIsTerminal : Obligations.DoneIsTerminal := by
  intro s t w n r hw h
  cases step_next h with
  | request _ hidle => exact .inl ((getElem?_setWalker_ne (by rintro rfl; simp [hw] at hidle) _ _).trans hw)
  | walk _ hwalking => exact .inl ((getElem?_setWalker_ne (by rintro rfl; simp [hw] at hwalking) _ _).trans hw)
  | @respond v n' r' rest hagenda hdone =>
    by_cases hvw : v = w
    · subst hvw
      obtain ⟨rfl, rfl⟩ : r' = r ∧ n' = n := by simpa [hw, eq_comm] using hdone
      exact .inr ⟨rest, hagenda, getElem?_setWalker_self (s := { s with agenda := rest }) hw .idle, rfl⟩
    · exact .inl ((getElem?_setWalker_ne hvw _ _).trans hw)
  | call _ hi hexec => rw [(execOperation_next hi hexec).walkers]; exact .inl hw
  | nothing | store | poke | unmap | answer => exact .inl hw

end Sys2Proof.Machine
end

section
/-! A whole walk over the memory reader (R151), as a relation: one constructor for the walk step that ends the walk, one for a
walk step that goes on. What a whole walk keeps or makes is an induction over it. -/

namespace Sys2Proof.Machine

variable {c : Config} {k j : Walk} {m m' : Reader} {evs : List ReadEvent} {r : WalkResult}

/-- A walk with latches `k` over the memory reader `m` makes the reads `evs`, ends with the result `r`, and leaves the reader
`m'`. -/
inductive WalkRun (c : Config) : Walk → Reader → List ReadEvent → WalkResult → Reader → Prop
  | last {k : Walk} {m m' : Reader} {x : ReadResult} {r : WalkResult} {n : Nat}
      (hread : memRead c m (walkAddr k) = (x, m')) (heffect : answerEffect c k x = .done r n) :
      WalkRun c k m [⟨k.id, k.wp.level, walkAddr k, x⟩] r m'
  | more {k j : Walk} {m m₁ m' : Reader} {x : ReadResult} {evs : List ReadEvent} {r : WalkResult}
      (hread : memRead c m (walkAddr k) = (x, m₁)) (heffect : answerEffect c k x = .walking j)
      (hrest : WalkRun c j m₁ evs r m') :
      WalkRun c k m (⟨k.id, k.wp.level, walkAddr k, x⟩ :: evs) r m'

/-! ## One walk step -/

theorem ordinal_of_nextLevel {l l' : Level} (h : nextLevel l = some l') : ordinal l' = ordinal l + 1 := by
  cases l <;> cases h <;> rfl

/-- R140: no outcome of a walk step is Idle. -/
theorem answerEffect_ne_idle (c : Config) (k : Walk) (x : ReadResult) : answerEffect c k x ≠ .idle := by
  obtain ⟨_, h⟩ | ⟨_, h⟩ | ⟨_, _, _, _, h⟩ := answerEffect_cases c k x <;> rw [h] <;> exact WalkState.noConfusion

/-- R140: a walk step that ends the walk counts its read. -/
theorem answerEffect_done {x : ReadResult} {n : Nat} (h : answerEffect c k x = .done r n) : n = k.nreads + 1 := by
  obtain ⟨_, h'⟩ | ⟨_, h'⟩ | ⟨_, _, _, _, h'⟩ := answerEffect_cases c k x <;> rw [h'] at h <;> cases h <;> rfl

/-- R25: a walk step that goes on counts its read and goes down one level. -/
theorem answerEffect_walking_counts {x : ReadResult} (h : answerEffect c k x = .walking j) :
    j.nreads = k.nreads + 1 ∧ ordinal j.wp.level = ordinal k.wp.level + 1 := by
  obtain ⟨e, -, hnext, hj⟩ := answerEffect_walking h
  exact ⟨by rw [hj], ordinal_of_nextLevel hnext⟩

/-- R24, R25: a walk that goes on is the same walk of the same virtual address. -/
theorem answerEffect_walking_id {x : ReadResult} (h : answerEffect c k x = .walking j) : j.id = k.id ∧ j.va = k.va := by
  obtain ⟨e, -, -, hj⟩ := answerEffect_walking h
  exact ⟨by rw [hj], by rw [hj]⟩

/-- The state in which the read of a walk step, answered with `x`, leaves the machine and the memory reader. -/
def afterRead (s : State) (k : Walk) (x : ReadResult) (m : Reader) : State :=
  { s with reader := m, events := s.events ++ [⟨k.id, k.wp.level, walkAddr k, x⟩] }

/-- R140: a walk step, by the read it makes. -/
theorem stepWalk_of_memRead {s : State} {x : ReadResult} (hread : memRead s.cfg s.reader (walkAddr k) = (x, m)) :
    stepWalk k s = (answerEffect s.cfg k x, afterRead s k x m) := by
  rw [← Prod.mk.eta (p := stepWalk k s), stepWalk_fst, stepWalk_snd, hread, afterRead]

/-- R140: a walker's walk step, by the read it makes. -/
theorem step_walk_of_memRead {s : State} {w : Nat} {rest : List Move} {x : ReadResult}
    (hagenda : s.agenda = .walk w :: rest) (hw : s.walkers[w]? = some (.walking k))
    (hread : memRead s.cfg s.reader (walkAddr k) = (x, m)) :
    step s = .next (setWalker (afterRead { s with agenda := rest, active := w } k x m) w (answerEffect s.cfg k x)) := by
  rw [step_walk hagenda hw, stepWalk_of_memRead (s := { s with agenda := rest, active := w }) hread]

@[simp] theorem startWalk_nreads (id : Nat) (tb va : Word) : (startWalk id tb va).nreads = 0 := rfl
@[simp] theorem startWalk_level (id : Nat) (tb va : Word) : (startWalk id tb va).wp.level = .pml4 := rfl

/-- R150, R151: `translate` replies the result of the walk that its walk steps have ended. -/
theorem exec_translate_of_iterateWalk {s s' : State} {tb va : Word} {n : Nat}
    (h : iterateWalk 4 (startWalk s.nWalks tb va) { s with nWalks := s.nWalks + 1 } = (.done r n, s')) :
    exec (.translate tb va) s = .next (reply s' (.result r)) := by
  simp only [exec, execTranslate, h, answerCall_eq]

/-! ## Existence, and what a walk keeps -/

/-- R155: whatever the memory reader answers, a walk ends: each walk step that goes on is at the next level. -/
theorem exists_walkRun (c : Config) (k : Walk) (m : Reader) : ∃ evs r m', WalkRun c k m evs r m' := by
  cases heffect : answerEffect c k (memRead c m (walkAddr k)).1 with
  | idle => exact absurd heffect (answerEffect_ne_idle _ _ _)
  | done r n => exact ⟨_, _, _, .last rfl heffect⟩
  | walking j =>
    obtain ⟨_, _, _, hrest⟩ := exists_walkRun c j (memRead c m (walkAddr k)).2
    exact ⟨_, _, _, .more rfl heffect hrest⟩
termination_by 4 - ordinal k.wp.level
decreasing_by
  have hnext := (answerEffect_walking_counts heffect).2
  have hlevel : ordinal k.wp.level < 4 := by cases k.wp.level <;> decide
  omega

namespace WalkRun

/-- R47: a walk leaves the image alone. -/
theorem mem_eq (h : WalkRun c k m evs r m') : m'.mem = m.mem := by
  induction h with
  | @last k m _ _ _ _ hread => rw [← memRead_mem c m (walkAddr k), hread]
  | @more k _ m _ _ _ _ _ hread _ _ ih => rw [ih, ← memRead_mem c m (walkAddr k), hread]

/-- R32: every read of a walk carries its identity. -/
theorem walk_of_mem (h : WalkRun c k m evs r m') : ∀ ev ∈ evs, ev.walk = k.id := by
  induction h with
  | last => simp
  | more _ heffect _ ih =>
    rw [(answerEffect_walking_id heffect).1] at ih
    exact List.forall_mem_cons.mpr ⟨rfl, ih⟩

theorem length_pos (h : WalkRun c k m evs r m') : 1 ≤ evs.length := by
  cases h <;> simp

/-- R156: a walk reads one level after the other from its own down. -/
theorem levels (h : WalkRun c k m evs r m') :
    evs.map (fun ev => ev.level) = ([Level.pml4, .pdpt, .pd, .pt].drop (ordinal k.wp.level)).take evs.length := by
  have hdrop (l : Level) : [Level.pml4, .pdpt, .pd, .pt].drop (ordinal l)
      = l :: [Level.pml4, .pdpt, .pd, .pt].drop (ordinal l + 1) := by cases l <;> rfl
  induction h with
  | last => rw [hdrop]; rfl
  | more _ heffect _ ih =>
    rw [(answerEffect_walking_counts heffect).2] at ih
    rw [hdrop, List.map_cons, ih, List.length_cons, List.take_succ_cons]

/-- R155: there is a read for each level at most. -/
theorem length_le (h : WalkRun c k m evs r m') : evs.length ≤ 4 := by
  have hlength := congrArg List.length h.levels
  rw [List.length_map, List.length_take, List.length_drop] at hlength
  have : [Level.pml4, .pdpt, .pd, .pt].length = 4 := rfl
  omega

/-- R154, R185: the result goes with the number of reads. -/
theorem legalDone_length (h : WalkRun c k m evs r m') (hk : k.nreads = ordinal k.wp.level) :
    legalDone c r (k.nreads + evs.length) = true := by
  induction h with
  | last _ heffect =>
    have hlegal : legalWalkState c (.done _ _) = true := heffect ▸ legalWalkState_answerEffect c hk _
    rwa [answerEffect_done heffect] at hlegal
  | more _ heffect _ ih =>
    obtain ⟨hnreads, hlevel⟩ := answerEffect_walking_counts heffect
    have hlegal := ih (by rw [hnreads, hlevel, hk])
    rwa [hnreads, Nat.add_assoc, Nat.add_comm 1] at hlegal

/-! ## The walk of `translate` -/

/-- R151: walk steps one after the other, with enough of them allowed, make the walk. -/
theorem iterateWalk_eq (h : WalkRun c k m evs r m') {s : State} (hcfg : s.cfg = c) (hreader : s.reader = m) {n : Nat}
    (hn : evs.length ≤ n) : iterateWalk n k s
      = (.done r (k.nreads + evs.length), { s with reader := m', events := s.events ++ evs }) := by
  induction h generalizing s n with
  | last hread heffect =>
    subst hcfg hreader
    obtain ⟨n, rfl⟩ := Nat.exists_eq_add_one_of_ne_zero (Nat.ne_zero_of_lt hn)
    simp only [iterateWalk, stepWalk_of_memRead hread, heffect, answerEffect_done heffect, List.length_singleton, afterRead]
  | @more k j m m₁ m' x evs r hread heffect _ ih =>
    subst hcfg hreader
    obtain ⟨n, rfl⟩ := Nat.exists_eq_add_one_of_ne_zero (Nat.ne_zero_of_lt hn)
    simp only [iterateWalk, stepWalk_of_memRead hread, heffect]
    rw [ih (s := afterRead s k x m₁) rfl rfl (by simpa using hn), (answerEffect_walking_counts heffect).1]
    simp [afterRead, Nat.add_comm, Nat.add_left_comm]

/-- R150: `translate` completes with the reads and the result of the walk from its start. -/
theorem exec_translate {s : State} {tb va : Word} (h : WalkRun s.cfg (startWalk s.nWalks tb va) s.reader evs r m') :
    exec (.translate tb va) s = .next { s with
      reader := m', events := s.events ++ evs, replies := s.replies ++ [.result r], nWalks := s.nWalks + 1 } := by
  have hwalk := h.iterateWalk_eq (s := { s with nWalks := s.nWalks + 1 }) rfl rfl h.length_le
  exact exec_translate_of_iterateWalk hwalk

end WalkRun

/-- Settles O46: the walk from the start latches, which stand at the PML4 with no read made. -/
theorem translateAlwaysCompletes : Obligations.TranslateAlwaysCompletes := by
  intro s tb va
  obtain ⟨evs, r, m', h⟩ := exists_walkRun s.cfg (startWalk s.nWalks tb va) s.reader
  have hlegal := h.legalDone_length rfl
  rw [startWalk_nreads, Nat.zero_add] at hlegal
  refine ⟨_, r, evs, h.exec_translate, ?_, h.levels, h.length_pos, h.length_le, hlegal, h.walk_of_mem⟩
  simp only [← h.mem_eq]

/-! ## The same walk under another identity -/

/-- R24: a walk state with another identity in the latch of a walk in progress. -/
def WalkState.withId (i : Nat) : WalkState → WalkState
  | .idle => .idle
  | .walking k => .walking { k with id := i }
  | .done r n => .done r n

/-- R32: the identity has no part in a walk step's outcome. -/
theorem answerEffect_withId (c : Config) (k : Walk) (i : Nat) (x : ReadResult) :
    answerEffect c { k with id := i } x = (answerEffect c k x).withId i := by
  cases x with
  | fault info => rfl
  | ok e =>
    simp only [answerEffect, entryEffect]
    cases classify k.wp.level e
    case pdePs1 =>
      simp only [effectPdePs1]
      cases c.pdPsPolicy <;> rfl
    all_goals rfl

/-- R32: under another identity a walk makes the same reads, with that identity in their events. -/
theorem WalkRun.withId (h : WalkRun c k m evs r m') (i : Nat) :
    WalkRun c { k with id := i } m (evs.map fun ev => { ev with walk := i }) r m' := by
  induction h with
  | last hread heffect => exact .last hread (by rw [answerEffect_withId, heffect]; rfl)
  | more hread heffect _ ih => exact .more hread (by rw [answerEffect_withId, heffect]; rfl) ih

/-- Settles O50: both calls make the walk of one memory reader, but for the identity. -/
theorem nothingPersistsBetweenWalks : Obligations.NothingPersistsBetweenWalks := by
  intro s s' tb va hreader hcfg
  obtain ⟨evs, r, m', h⟩ := exists_walkRun s.cfg (startWalk s.nWalks tb va) s.reader
  have h' := h.withId s'.nWalks
  rw [← hreader, ← hcfg] at h'
  exact ⟨r, _, _, h.exec_translate, WalkRun.exec_translate h', rfl, rfl, rfl⟩

/-! ## The walk of a walker, step by step -/

/-- R140, R151: a walker's walk steps with no other move between make the walk, and leave the walker Done. -/
theorem WalkRun.run_walk_moves (h : WalkRun c k m evs r m') {s : State} {w : Nat} {rest : List Move} (hcfg : s.cfg = c)
    (hreader : s.reader = m) (hw : s.walkers[w]? = some (.walking k))
    (hagenda : s.agenda = List.replicate evs.length (.walk w) ++ rest) :
    Host.Core.run Sys2Proof.core evs.length s = .next { s with
      walkers := s.walkers.set w (.done r (k.nreads + evs.length))
      active := w, reader := m', agenda := rest, events := s.events ++ evs } := by
  induction h generalizing s with
  | last hread heffect =>
    subst hcfg hreader
    rw [List.length_singleton, run_succ_next 0 (step_walk_of_memRead hagenda hw hread), run_zero, heffect,
      answerEffect_done heffect]
    rfl
  | @more k j m m₁ m' x evs r hread heffect _ ih =>
    subst hcfg hreader
    have hstep := step_walk_of_memRead (rest := List.replicate evs.length (.walk w) ++ rest) hagenda hw hread
    rw [heffect] at hstep
    have hrun := ih (s := setWalker (afterRead { s with
      agenda := List.replicate evs.length (.walk w) ++ rest, active := w } k x m₁) w (.walking j))
      rfl rfl (getElem?_setWalker_self (s := afterRead _ k x m₁) hw _) rfl
    rw [List.length_cons, run_succ_next _ hstep, hrun, (answerEffect_walking_counts heffect).1]
    simp [afterRead, Nat.add_comm, Nat.add_left_comm]

/-- Settles O49: the walker's walk is that of `translate`, but for the identity. -/
theorem steppedWalkIsTranslate : Obligations.SteppedWalkIsTranslate := by
  intro s w id tb va hw
  obtain ⟨evs, r, m', h⟩ := exists_walkRun s.cfg (startWalk id tb va) s.reader
  have htranslate := WalkRun.exec_translate (h.withId s.nWalks)
  refine ⟨evs.length, r, _, h.length_pos, h.length_le, htranslate, rfl, fun rest => ?_⟩
  have hrun := h.run_walk_moves (s := { s with agenda := List.replicate evs.length (.walk w) ++ rest }) rfl rfl hw rfl
  rw [startWalk_nreads, Nat.zero_add] at hrun
  exact ⟨_, hrun, rfl, rfl, rfl, rfl⟩

end Sys2Proof.Machine
end

section
/-! R157's three properties of the reads of a walk, and the walk of a valid chain (R54, R157). -/

namespace Sys2Proof.Machine

variable {c : Config} {k : Walk} {m m' : Reader} {evs : List ReadEvent} {r : WalkResult} {e : Word}

/-! ## The source's properties -/

namespace WalkRun

/-- R151: the last read of a walk is at the level that its number of reads gives, and its answer ends the walk. -/
theorem exists_last (h : WalkRun c k m evs r m') : ∃ ev j n, evs.getLast? = some ev ∧ j.va = k.va ∧ j.wp.level = ev.level
    ∧ answerEffect c j ev.answer = .done r n ∧ ordinal k.wp.level + evs.length = ordinal ev.level + 1 := by
  induction h with
  | @last k _ _ _ _ n _ heffect => exact ⟨_, k, n, rfl, rfl, rfl, heffect, rfl⟩
  | more _ heffect _ ih =>
    obtain ⟨ev, j, n, hlast, hva, hlevel, hdone, hlength⟩ := ih
    have hordinal := (answerEffect_walking_counts heffect).2
    refine ⟨ev, j, n, ?_, hva.trans (answerEffect_walking_id heffect).2, hlevel, hdone, ?_⟩
    · rw [List.getLast?_cons, hlast]; rfl
    · rw [List.length_cons]; omega

/-- R157: a read whose answer does not let a walk at its level go on is the last one. -/
theorem getLast?_of_mem (h : WalkRun c k m evs r m') {ev : ReadEvent} (hev : ev ∈ evs)
    (hends : ∀ j j' : Walk, j.wp.level = ev.level → answerEffect c j ev.answer ≠ .walking j') :
    evs.getLast? = some ev := by
  induction h with
  | last => rw [List.mem_singleton.mp hev]; rfl
  | more _ heffect _ ih =>
    obtain rfl | hev := List.mem_cons.mp hev
    · exact absurd heffect (hends _ _ rfl)
    · rw [List.getLast?_cons, ih hev]; rfl

end WalkRun

/-- R157: with P set, and PS clear below the PML4, only a PTE ends the walk, and its page address is the result. -/
theorem eq_pt_of_entryEffect_done {n : Nat} (hpresent : e.getLsbD 0 = true)
    (hpageSize : k.wp.level ≠ .pml4 → e.getLsbD 7 = false) (h : entryEffect c k e = .done r n) :
    k.wp.level = .pt ∧ r = .ok (pageAddr4k e k.va) := by
  cases hnext : nextLevel k.wp.level with
  | some next =>
    rw [entryEffect_table hpresent ((em _).imp_right hpageSize) hnext] at h
    cases h
  | none =>
    have hlevel : k.wp.level = .pt := by cases hl : k.wp.level <;> rw [hl] at hnext <;> cases hnext
    rw [entryEffect_pt hlevel, hpresent, hpageSize (by simp [hlevel])] at h
    cases h
    exact ⟨hlevel, rfl⟩

/-- R78: a 4 KiB page address is the entry's frame number above the offset. -/
theorem pageAddr4k_above_offset (e va : Word) :
    (pageAddr4k e va).extractLsb' 12 52 = (e.extractLsb' 12 40).setWidth 52 := by
  refine BitVec.eq_of_getLsbD_eq fun i hi => ?_
  rw [BitVec.getLsbD_extractLsb', BitVec.getLsbD_setWidth, ← pageAddr4k_frame e va, BitVec.getLsbD_extractLsb']
  by_cases hframe : i < 40
  · simp [hi, hframe]
  · have habove := congrArg (·.getLsbD (i - 40)) (pageAddr4k_below e va)
    simp only [BitVec.getLsbD_extractLsb', show 52 + (i - 40) = 12 + i by omega, show i - 40 < 12 by omega, decide_true,
      Bool.true_and] at habove
    simp [hframe, habove]

/-- R141: a 4 KiB page address as masked shifts. -/
theorem pageAddr4k_eq_masks (e va : Word) :
    pageAddr4k e va = (((e >>> 12) &&& 0xFFFFFFFFFF) <<< 12) ||| (va &&& 0xFFF) := by
  rw [pageAddr4k_eq_or, frameNumber_eq_shift_and, select_eq_shift_and]
  rfl

/-- R157: a walk all of whose entries have P set, and PS clear below the PML4, ends with the page address of a PTE. -/
theorem WalkRun.last_of_tables (h : WalkRun c k m evs r m')
    (htables : ∀ ev ∈ evs, ∃ e, ev.answer = .ok e ∧ e.getLsbD 0 = true ∧ (ev.level ≠ .pml4 → e.getLsbD 7 = false)) :
    ∃ ev e, evs.getLast? = some ev ∧ ordinal k.wp.level + evs.length = 4 ∧ ev.level = .pt ∧ ev.answer = .ok e
      ∧ r = .ok (pageAddr4k e k.va) := by
  obtain ⟨ev, j, n, hlast, hva, hlevel, hdone, hlength⟩ := h.exists_last
  obtain ⟨e, hanswer, hpresent, hpageSize⟩ := htables ev (List.mem_of_getLast? hlast)
  rw [hanswer] at hdone
  rw [← hlevel] at hpageSize hlength
  obtain ⟨hpt, hr⟩ := eq_pt_of_entryEffect_done hpresent hpageSize hdone
  rw [hpt] at hlength
  exact ⟨ev, e, hlast, hlength, hlevel.symm.trans hpt, hanswer, hva ▸ hr⟩

/-- R157: where the answer to a read ends every walk at its level with a result that the virtual address gives, that is the
result of the walk, and the read is the last one. -/
theorem WalkRun.result_of_mem (h : WalkRun c k m evs r m') {ev : ReadEvent} (hev : ev ∈ evs) {result : Word → WalkResult}
    (hends : ∀ j : Walk, j.wp.level = ev.level → answerEffect c j ev.answer = .done (result j.va) (j.nreads + 1)) :
    r = result k.va ∧ evs.getLast? = some ev ∧ ordinal k.wp.level + evs.length = ordinal ev.level + 1 := by
  have hlast := h.getLast?_of_mem hev fun j j' hj => by rw [hends j hj]; exact WalkState.noConfusion
  obtain ⟨ev', j, n, hlast', hva, hlevel, hdone, hlength⟩ := h.exists_last
  obtain rfl : ev = ev' := Option.some.inj (hlast.symm.trans hlast')
  rw [hends j hlevel, hva] at hdone
  cases hdone
  exact ⟨rfl, hlast, hlength⟩

/-- Settles O52: the walk of the call from the PML4; `last_of_tables` for the first property, and `result_of_mem` at a huge
PDPT entry and at an entry with P clear. -/
theorem sourceProperties : Obligations.SourceProperties := by
  intro s t tb va evs r hexec hevents hreplies
  obtain ⟨evs', r', m', h⟩ := exists_walkRun s.cfg (startWalk s.nWalks tb va) s.reader
  rw [h.exec_translate] at hexec
  cases hexec
  obtain rfl : evs' = evs := List.append_cancel_left hevents
  obtain rfl : r' = r := by simpa using hreplies
  refine ⟨fun htables => ?_, fun ev hev e hanswer hlevel hpresent hpageSize => ?_, fun ev hev e hanswer hpresent => ?_⟩
  · obtain ⟨ev, e, hlast, hlength, hlevel, hanswer, rfl⟩ := h.last_of_tables htables
    obtain ⟨ev1, ev2, ev3, ev4, rfl⟩ := List.length_eq_four.mp ((Nat.zero_add _).symm.trans hlength)
    obtain rfl : ev4 = ev := Option.some.inj hlast
    exact ⟨ev1, ev2, ev3, ev4, e, _, rfl, hlevel, hanswer, rfl, pageAddr4k_offset e va, pageAddr4k_above_offset e va⟩
  · obtain ⟨rfl, -, hlength⟩ := h.result_of_mem hev (result := fun va => .ok (pageAddr1g e va)) fun j hj => by
      rw [hanswer, answerEffect, entryEffect_pdpt (hj.trans hlevel), hpresent, hpageSize]
      rfl
    have htwo : evs'.length = 2 := by rw [hlevel] at hlength; exact (Nat.zero_add _).symm.trans hlength
    refine ⟨_, rfl, pageAddr1g_offset e va, htwo, fun ev' hev' => ?_⟩
    have hmem : ev'.level ∈ evs'.map (fun ev => ev.level) := List.mem_map_of_mem hev'
    rw [h.levels, htwo, startWalk_level] at hmem
    obtain hpml4 | hpdpt : ev'.level = .pml4 ∨ ev'.level = .pdpt := by simpa [ordinal] using hmem
    · simp [hpml4]
    · simp [hpdpt]
  · obtain ⟨rfl, hlast, -⟩ := h.result_of_mem hev (result := fun _ => .err (.notPresent ev.level)) fun j hj => by
      rw [hanswer, answerEffect, entryEffect_of_not_present ((present_eq e).trans hpresent), hj]
      rfl
    exact ⟨rfl, hlast⟩

/-! ## A valid chain -/

/-- Settles O57: the walk is written out, read by read, with the effect of each entry from its equation. -/
theorem validChainTranslates : Obligations.ValidChainTranslates := by
  intro s tb va e1 e2 m1 m2 hread1 hread2 hpresent1 hpresent2
  refine ⟨fun e3 e4 m3 m4 hps2 hread3 hpresent3 hps3 hread4 hpresent4 hps4 => ?_, fun hps2 => ?_⟩
  · have hpte (k : Walk) (hlevel : k.wp.level = .pt) : entryEffect s.cfg k e4 = finish k (pageAddr4k e4 k.va) := by
      rw [entryEffect_pt hlevel, hpresent4, hps4, cond_true, cond_false]
    rw [← pageAddr4k_eq_masks]
    exact WalkRun.exec_translate (.more hread1 (entryEffect_table hpresent1 (.inl rfl) rfl)
      (.more hread2 (entryEffect_table hpresent2 (.inr hps2) rfl)
        (.more hread3 (entryEffect_table hpresent3 (.inr hps3) rfl) (.last hread4 (hpte _ rfl)))))
  · have hpdpte (k : Walk) (hlevel : k.wp.level = .pdpt) : entryEffect s.cfg k e2 = finish k (pageAddr1g e2 k.va) := by
      rw [entryEffect_pdpt hlevel, hpresent2, hps2, cond_true, cond_true]
    exact WalkRun.exec_translate (.more hread1 (entryEffect_table hpresent1 (.inl rfl) rfl) (.last hread2 (hpdpte _ rfl)))

end Sys2Proof.Machine
end

section
/-! The pseudocode of R150 as four levels, and a walk over an image that stays the same, which makes the same tests at each. -/

namespace Sys2Proof.Machine

variable {c : Config} {k : Walk} {m m' : Reader} {evs : List ReadEvent} {r : WalkResult} {e : Word}

/-! ## The tests of the pseudocode -/

theorem select_pageSizeField_eq_one_iff (e : Word) : select e pageSizeField = 1 ↔ e.getLsbD 7 = true := by
  rw [← pageSize_eq, pageSize, decide_eq_true_iff]

theorem select_presentField_eq_zero_iff (e : Word) : select e presentField = 0 ↔ e.getLsbD 0 = false := by
  have hlt : (select e presentField).toNat < 2 ^ presentField.width := toNat_select_lt e presentField
  have hwidth : presentField.width = 1 := rfl
  rw [hwidth] at hlt
  rw [← present_eq, present, decide_eq_false_iff_not]
  bv_omega

/-- R150: the read and the P test that open each level. -/
def pseudocodeLevel (read : Word → ReadResult) (lvl : Level) (base va : Word) (rest : Word → WalkResult) : WalkResult :=
  match read (entryAddr lvl base va) with
  | .fault i => .err (.accessFault i)
  | .ok e => if select e presentField = 0 then .err (.notPresent lvl) else rest e

section PseudocodeLevel
variable {read : Word → ReadResult} {lvl : Level} {base va : Word} {rest : Word → WalkResult}

theorem pseudocodeLevel_fault {i : FaultInfo} (hread : read (entryAddr lvl base va) = .fault i) :
    pseudocodeLevel read lvl base va rest = .err (.accessFault i) := by
  simp only [pseudocodeLevel, hread]

theorem pseudocodeLevel_not_present (hread : read (entryAddr lvl base va) = .ok e) (hpresent : e.getLsbD 0 = false) :
    pseudocodeLevel read lvl base va rest = .err (.notPresent lvl) := by
  simp only [pseudocodeLevel, hread, if_pos ((select_presentField_eq_zero_iff e).mpr hpresent)]

theorem pseudocodeLevel_present (hread : read (entryAddr lvl base va) = .ok e) (hpresent : e.getLsbD 0 = true) :
    pseudocodeLevel read lvl base va rest = rest e := by
  have hset : ¬ select e presentField = 0 := (select_presentField_eq_zero_iff e).not.mpr (by simp [hpresent])
  simp only [pseudocodeLevel, hread, if_neg hset]

end PseudocodeLevel

/-- R150: the pseudocode as four levels. -/
theorem translatePseudocode_eq_levels (policy : PdPsPolicy) (read : Word → ReadResult) (tb va : Word) :
    translatePseudocode policy read tb va
      = pseudocodeLevel read .pml4 (frameBase tb) va fun e1 =>
        pseudocodeLevel read .pdpt (frameBase e1) va fun e2 =>
          if select e2 pageSizeField = 1 then .ok (pageAddr1g e2 va) else
        pseudocodeLevel read .pd (frameBase e2) va fun e3 =>
          if select e3 pageSizeField = 1 ∧ policy = .fault then .err (.unexpectedHugePage .pd) else
          if select e3 pageSizeField = 1 ∧ policy = .map2m then .ok (pageAddr2m e3 va) else
        pseudocodeLevel read .pt (frameBase e3) va fun e4 =>
          if select e4 pageSizeField = 1 then .err (.unexpectedHugePage .pt) else .ok (pageAddr4k e4 va) := rfl

/-! ## The effect of a present entry by those tests -/

section Present
variable (hpresent : e.getLsbD 0 = true)
include hpresent

/-- R131, R132: a present PDPT entry, by R150's test of PS. -/
theorem entryEffect_present_pdpt (hlevel : k.wp.level = .pdpt) : entryEffect c k e
    = if select e pageSizeField = 1 then finish k (pageAddr1g e k.va) else descend k .pd e := by
  rw [entryEffect_pdpt hlevel, hpresent]
  simp only [select_pageSizeField_eq_one_iff, Bool.cond_eq_ite, if_true]

/-- R134, R135: a present PD entry, by R150's tests of PS and of the policy. -/
theorem entryEffect_present_pd (hlevel : k.wp.level = .pd) : entryEffect c k e
    = if select e pageSizeField = 1 ∧ c.pdPsPolicy = .fault then raise k (.unexpectedHugePage .pd) else
      if select e pageSizeField = 1 ∧ c.pdPsPolicy = .map2m then finish k (pageAddr2m e k.va) else descend k .pt e := by
  rw [entryEffect_pd hlevel, hpresent]
  simp only [select_pageSizeField_eq_one_iff]
  cases e.getLsbD 7 with
  | false => simp
  | true => cases hpolicy : c.pdPsPolicy <;> simp [effectPdePs1, hpolicy]

/-- R137, R138: a present PT entry, by R150's test of PS. -/
theorem entryEffect_present_pt (hlevel : k.wp.level = .pt) : entryEffect c k e
    = if select e pageSizeField = 1 then raise k (.unexpectedHugePage .pt) else finish k (pageAddr4k e k.va) := by
  rw [entryEffect_pt hlevel, hpresent]
  simp only [select_pageSizeField_eq_one_iff, Bool.cond_eq_ite, if_true]

end Present

/-! ## The walk and the pseudocode -/

/-- The result that a walk state leads to over a memory reader. -/
def EndsIn (c : Config) (m : Reader) (ws : WalkState) (r : WalkResult) : Prop :=
  match ws with
  | .idle => False
  | .walking j => ∃ evs m', WalkRun c j m evs r m'
  | .done r' _ => r = r'

/-- R44: with no answer decided on, an aligned read that is answered with an entry leaves the memory reader as it was. -/
theorem memRead_reader_of_ok {a : Word} (hanswers : m.answers = []) (haligned : a.extractLsb' 0 3 = 0)
    (hread : memRead c m a = (.ok e, m')) : m' = m := by
  cases hword : readWord m.mem a with
  | some v =>
    rw [memRead_of_readWord c hanswers haligned hword] at hread
    cases hread
    rfl
  | none =>
    rw [memRead_image c a (.inl ⟨hanswers, rfl⟩), imageAnswer_of_readWord_none c haligned hword] at hread
    cases hread

/-- R150: over an image that stays the same, the result of a walk is that of its level of the pseudocode, where each present
entry leads to the result of the rest. -/
theorem WalkRun.eq_pseudocodeLevel (h : WalkRun c k m evs r m') (hanswers : m.answers = [])
    (hbase : frameBase k.wp.base = k.wp.base) {rest : Word → WalkResult}
    (hrest : ∀ e, e.getLsbD 0 = true → EndsIn c m (entryEffect c k e) r → r = rest e) :
    r = pseudocodeLevel (fun a => (memRead c m a).1) k.wp.level k.wp.base k.va rest := by
  have hends : ∃ x m₁, memRead c m (walkAddr k) = (x, m₁) ∧ EndsIn c m₁ (answerEffect c k x) r := by
    cases h with
    | last hread heffect => exact ⟨_, _, hread, by rw [heffect, EndsIn]⟩
    | more hread heffect hwalk => exact ⟨_, _, hread, by rw [heffect]; exact ⟨_, _, hwalk⟩⟩
  obtain ⟨x, m₁, hread, hends⟩ := hends
  have hanswer := congrArg Prod.fst hread
  cases x with
  | fault i => exact Eq.trans hends (pseudocodeLevel_fault hanswer).symm
  | ok e =>
    rw [memRead_reader_of_ok hanswers (walkAddr_aligned hbase) hread] at hends
    cases hpresent : e.getLsbD 0 with
    | false =>
      rw [answerEffect, entryEffect_of_not_present ((present_eq e).trans hpresent)] at hends
      exact Eq.trans hends (pseudocodeLevel_not_present hanswer hpresent).symm
    | true => exact (hrest e hpresent hends).trans (pseudocodeLevel_present hanswer hpresent).symm

/-- R150: over an image that stays the same, a walk from its start ends with the result of the pseudocode: at each level the
walk and the pseudocode make the same tests. -/
theorem WalkRun.eq_translatePseudocode {id : Nat} {tb va : Word} (h : WalkRun c (startWalk id tb va) m evs r m')
    (hanswers : m.answers = []) :
    r = translatePseudocode c.pdPsPolicy (fun a => (memRead c m a).1) tb va := by
  rw [translatePseudocode_eq_levels]
  refine h.eq_pseudocodeLevel hanswers (frameBase_frameBase tb) fun e1 hpresent1 hends1 => ?_
  rw [entryEffect_table hpresent1 (.inl rfl) rfl] at hends1
  obtain ⟨_, _, h2⟩ := hends1
  refine h2.eq_pseudocodeLevel hanswers (frameBase_frameBase e1) fun e2 hpresent2 hends2 => ?_
  rw [entryEffect_present_pdpt hpresent2 rfl] at hends2
  split_ifs at hends2 ⊢
  · exact hends2
  obtain ⟨_, _, h3⟩ := hends2
  refine h3.eq_pseudocodeLevel hanswers (frameBase_frameBase e2) fun e3 hpresent3 hends3 => ?_
  rw [entryEffect_present_pd hpresent3 rfl] at hends3
  split_ifs at hends3 ⊢
  · exact hends3
  · exact hends3
  obtain ⟨_, _, h4⟩ := hends3
  refine h4.eq_pseudocodeLevel hanswers (frameBase_frameBase e3) fun e4 hpresent4 hends4 => ?_
  rw [entryEffect_present_pt hpresent4 rfl] at hends4
  split_ifs at hends4 ⊢
  · exact hends4
  · exact hends4

/-- Settles O48: the result of the call's walk is that of the pseudocode. -/
theorem translateIsItsPseudocode : Obligations.TranslateIsItsPseudocode := by
  intro s tb va hanswers
  obtain ⟨evs, r, m', h⟩ := exists_walkRun s.cfg (startWalk s.nWalks tb va) s.reader
  exact ⟨_, h.exec_translate, by rw [← h.eq_translatePseudocode hanswers], h.mem_eq, rfl, rfl, rfl⟩

end Sys2Proof.Machine
end

section
/-! The fault of a read as the walk's result (R183), and the addresses 0 and all ones as results (R193). -/

namespace Sys2Proof.Machine

/-- Settles O27: `step_walk_of_memRead`, where the effect of a fault is its information; `memRead_mem` for the image. -/
theorem accessFaultIsPropagatedVerbatim : Obligations.AccessFaultIsPropagatedVerbatim := by
  intro s w rest k info hagenda hw hfault
  have hmem := memRead_mem s.cfg s.reader (walkAddr k)
  cases hread : memRead s.cfg s.reader (walkAddr k) with
  | mk x m =>
    rw [hread] at hfault hmem
    obtain rfl : x = .fault info := hfault
    exact ⟨_, step_walk_of_memRead hagenda hw hread, rfl, rfl, rfl, rfl, hmem, rfl, rfl⟩

theorem toNat_mod_of_extractLsb' {va : Word} {width : Nat} {offset : BitVec width}
    (h : va.extractLsb' 0 width = offset) : va.toNat % 2 ^ width = offset.toNat := by
  rw [← h, BitVec.extractLsb'_toNat, Nat.shiftRight_zero]

/-- R193: frame 0 and offset 0 make the address 0. -/
theorem pageAddr4k_eq_zero {va : Word} (hoffset : va.extractLsb' 0 12 = 0) : pageAddr4k 1 va = 0 := by
  have hnumber : (pageAddr4k 1 va).toNat = _ := toNat_install_offset (r := offset4k) rfl 1 va
  rw [show offset4k.width = 12 from rfl, toNat_mod_of_extractLsb' hoffset] at hnumber
  exact BitVec.eq_of_toNat_eq hnumber

/-- R193: thirty-four ones of frame and thirty ones of offset make the all-ones address. -/
theorem pageAddr1g_eq_allOnes {va : Word} (hoffset : va.extractLsb' 0 30 = BitVec.allOnes 30) :
    pageAddr1g 0x00003FFFFFFFF081 va = 0xFFFFFFFFFFFFFFFF := by
  have hnumber : (pageAddr1g 0x00003FFFFFFFF081 va).toNat = _ := toNat_install_offset (r := offset1g) rfl _ va
  rw [show offset1g.width = 30 from rfl, toNat_mod_of_extractLsb' hoffset] at hnumber
  exact BitVec.eq_of_toNat_eq hnumber

/-- R78, R193: the all-ones word has bits above 51, a 4 KiB page address has none. -/
theorem pageAddr4k_ne_allOnes (e va : Word) : pageAddr4k e va ≠ 0xFFFFFFFFFFFFFFFF := by
  intro h
  have hbelow := pageAddr4k_below e va
  rw [h] at hbelow
  exact absurd hbelow (by decide)

/-- Settles O53: `validChainTranslates` for each of the two chains. -/
theorem noAddressIsASentinel : Obligations.NoAddressIsASentinel := by
  refine ⟨fun s tb va e1 e2 e3 ans hgiven hpresent1 hpresent2 hpresent3 hps2 hps3 hoffset => ?_,
    fun s tb va e1 ans hgiven hpresent1 hoffset => ?_, pageAddr4k_ne_allOnes⟩
  · have htranslate := (validChainTranslates s tb va e1 e2 _ _ (memRead_given _ _ hgiven) (memRead_given _ _ rfl)
      hpresent1 hpresent2).1 e3 1 _ _ hps2 (memRead_given _ _ rfl) hpresent3 hps3 (memRead_given _ _ rfl) (by decide)
      (by decide)
    rw [← pageAddr4k_eq_masks, pageAddr4k_eq_zero hoffset] at htranslate
    exact ⟨_, htranslate, rfl⟩
  · have htranslate := (validChainTranslates s tb va e1 _ _ _ (memRead_given _ _ hgiven) (memRead_given _ _ rfl)
      hpresent1 (by decide)).2 (by decide)
    rw [pageAddr1g_eq_allOnes hoffset] at htranslate
    exact ⟨_, htranslate, rfl⟩

end Sys2Proof.Machine
end
